-- ==== Sys2Proof/Word.lean ====
section
/-! DEFINITION. The word type of the block (rule R47 of 40_arithmetic_primitives.md, section 5 of 00_scope.md). -/

namespace Sys2Proof

/-- A word of width `w`: an integer `x` with `0 ≤ x < 2^w`, read as unsigned (R47). Bit `i` is
`x.getLsbD i`, of weight `2^i`, and bit 0 is the least significant (R20). Every word is definite:
there is no unknown or undriven value (R24). -/
abbrev Word (w : Nat) := BitVec w

end Sys2Proof
end

