-- ==== Sys2Proof/Config.lean ====
section
/-! DEFINITION. What an implementation fixes: the constants of one built instance of the block, and the values
the model names where the spec gives none. The spec leaves no value of the arithmetic open, so there is no
free value here. -/

namespace Sys2Proof

/-- What drives the wires of port `seed_i` (R97 of 70_reset_and_hazards.md). -/
inductive SeedDriver where
  /-- The caller, or a storage element of the caller: the wiring R97 asks for. -/
  | caller
  /-- The block's own output, with no storage in between: a combinational loop. -/
  | newSeedO
deriving DecidableEq, Repr

/-- One built copy of the block: the constants fixed at elaboration (R7, R69). No operation writes them. -/
structure Instance where
  /-- `WIDTH`, the width of the operands and of the result (R7). Legal values are the integers ≥ 1 (R8). -/
  width : Nat
  /-- The selector code `alg`, which R38 computes from `WIDTH`; not a port and not observable. -/
  alg : BitVec 2
  /-- How `seed_i` is wired (R97). DESIGN CHOICE, safe, log entry 6: the spec states the rule and no field. -/
  seedDriver : SeedDriver
deriving DecidableEq, Repr

/-- `WIDTH` of the instance in `State.reset`. DESIGN CHOICE: the spec leaves `WIDTH` a parameter. Unsafe,
see log entry 4. -/
def Config.resetWidth : Nat := 32

/-- The word the caller drives on each input in `State.reset`. DESIGN CHOICE: the spec says only "whatever
the caller drives". Unsafe, see log entry 4. -/
def Config.resetInput : Word Config.resetWidth := 0

/-- `WIDTH` of the instance on which a bare `MIXG` table word is placed, since the row's two bits say no
width. DESIGN CHOICE: one of the widths the spec works examples at. Safe, see log entry 3. -/
def Config.tableGenericWidth : Nat := 16

end Sys2Proof
end

