-- ==== Sys2Proof/Syntax.lean ====
section
/-! DEFINITION. The syntax: the three rows of opcode_table.json as instructions, the request format `Q`
(R36 of 30_encoding.md), and the form of a table row. -/

namespace Sys2Proof

/-- The three algorithms an instance may contain (R3, R38). -/
inductive Algorithm where
  | mixg
  | mix32
  | mix64
deriving DecidableEq, Repr

/-- One operation, with its two operand words: the seed first, the value second (R46). `COMBINE` is not a
fourth constructor: it is the operation all three implement (section 3 of 30_encoding.md, conflict C8). -/
inductive Instr where
  /-- `MIXG.W<w> seed, value` (R70), the algorithm at every width other than 32 and 64. -/
  | mixg (w : Nat) (seed value : Word w)
  /-- `MIX32 seed, value` (R58). -/
  | mix32 (seed value : Word 32)
  /-- `MIX64 seed, value` (R63). -/
  | mix64 (seed value : Word 64)
deriving DecidableEq, Repr

/-- The width of an operation's operands and result (R39). -/
def Instr.width : Instr → Nat
  | .mixg w _ _ => w
  | .mix32 _ _ => 32
  | .mix64 _ _ => 64

/-- The first operand (R17, R46). -/
def Instr.seed : (i : Instr) → Word i.width
  | .mixg _ seed _ => seed
  | .mix32 seed _ => seed
  | .mix64 seed _ => seed

/-- The second operand (R17, R46). -/
def Instr.value : (i : Instr) → Word i.width
  | .mixg _ _ value => value
  | .mix32 _ value => value
  | .mix64 _ value => value

/-- The algorithm of an operation's row. -/
def Instr.algorithm : Instr → Algorithm
  | .mixg _ _ _ => .mixg
  | .mix32 _ _ => .mix32
  | .mix64 _ _ => .mix64

/-- Format `Q` (R36): the selector code and width of the instance, and the two words on its input ports.
It is the way the spec writes down a request, not a packed word of the hardware (D6). -/
structure Request where
  width : Nat
  alg : BitVec 2
  seed : Word width
  value : Word width
deriving DecidableEq, Repr

/-- Why the decoder refuses a request. -/
inductive DecodeError where
  /-- `WIDTH = 0` (R8, R44 (a)). -/
  | illegalWidth
  /-- `alg = 0b11` (R44 (b)). -/
  | reservedSelector
  /-- `alg` is the code of an algorithm that R38 does not give for this `WIDTH`. -/
  | selectorMismatch
deriving DecidableEq, Repr

/-- One row of opcode_table.json: match and mask apply to the field `alg` only. -/
structure TableRow where
  mnemonic : String
  pattern : BitVec 2
  mask : BitVec 2
  algorithm : Algorithm
deriving DecidableEq, Repr

end Sys2Proof
end

