-- ==== Sys2Proof/WellFormed.lean ====
section
/-! DEFINITION. Which instruction terms the spec gives a meaning (R8, R70). -/

namespace Sys2Proof

/-- A well-formed operation. `MIXG` exists at every width `w ≥ 1` other than 32 and 64 (R70); width 0 is
illegal (R8, R44 (a)). Every pair of operand words is legal (R17, R44 (c)). -/
def Instr.wellFormed : Instr → Bool
  | .mixg w _ _ => w != 0 && w != 32 && w != 64
  | .mix32 _ _ => true
  | .mix64 _ _ => true

end Sys2Proof
end

