-- ==== Sys2Proof/Decode.lean ====
section
/-! DEFINITION. The selection of the algorithm (R37, R38 of 30_encoding.md), the decoder of a request, its
encoder, and the decoder of a table word. Every reserved or illegal request is rejected by name. -/

namespace Sys2Proof

/-- The selector code R38 gives an instance of width `w`. -/
def selectorCode (w : Nat) : BitVec 2 :=
  if w = 32 then 0b01#2 else if w = 64 then 0b10#2 else 0b00#2

/-- An instance of width `w` as it is built (R69): the code is R38's and the caller drives the seed (R97). -/
@[reducible] def Instance.build (w : Nat) : Instance :=
  { width := w, alg := selectorCode w, seedDriver := .caller }

/-- The three rows of opcode_table.json. -/
def opcodeTable : List TableRow :=
  [ { mnemonic := "MIXG", pattern := 0x0#2, mask := 0x3#2, algorithm := .mixg },
    { mnemonic := "MIX32", pattern := 0x1#2, mask := 0x3#2, algorithm := .mix32 },
    { mnemonic := "MIX64", pattern := 0x2#2, mask := 0x3#2, algorithm := .mix64 } ]

/-- Match and mask (section 3 of 30_encoding.md). -/
def TableRow.accepts (r : TableRow) (alg : BitVec 2) : Bool :=
  alg &&& r.mask == r.pattern

/-- The algorithm of the row that a selector code picks, if one does. -/
def selectRow (alg : BitVec 2) : Option Algorithm :=
  (opcodeTable.find? (·.accepts alg)).map (·.algorithm)

/-- The decoder: total on every request. It reads the width and the code, never an operand (R37). A code that is
not the one of the width is refused: DESIGN CHOICE, safe, log entry 5. -/
def decode (q : Request) : Except DecodeError Instr :=
  if q.width = 0 then .error .illegalWidth
  else match selectRow q.alg with
    | none => .error .reservedSelector
    | some .mix32 =>
      if h : q.width = 32 then .ok (.mix32 (q.seed.cast h) (q.value.cast h))
      else .error .selectorMismatch
    | some .mix64 =>
      if h : q.width = 64 then .ok (.mix64 (q.seed.cast h) (q.value.cast h))
      else .error .selectorMismatch
    | some .mixg =>
      if q.width = 32 ∨ q.width = 64 then .error .selectorMismatch
      else .ok (.mixg q.width q.seed q.value)

/-- The encoder: the request that presents an operation, with its row's code (section 3 of 30_encoding.md). -/
def encode : Instr → Request
  | .mixg w seed value => { width := w, alg := 0b00#2, seed, value }
  | .mix32 seed value => { width := 32, alg := 0b01#2, seed, value }
  | .mix64 seed value => { width := 64, alg := 0b10#2, seed, value }

/-- The width of the instance a bare table word stands for: the row says it for `MIX32` and `MIX64`, and the
model names one for `MIXG`. DESIGN CHOICE, safe, log entry 3. -/
def tableWidth (alg : BitVec 2) : Nat :=
  if alg = 0b01#2 then 32 else if alg = 0b10#2 then 64 else Config.tableGenericWidth

/-- The request of a bare table word of `nbits` bits: the code is its bits 1 and 0, the only bits the table
gives a row, bits from `nbits` up are 0, and both operand words are 0. -/
def tableRequest (nbits w : Nat) : Request :=
  let alg := BitVec.ofNat 2 (w % 2 ^ nbits)
  { width := tableWidth alg, alg, seed := 0, value := 0 }

/-- What the decoder reads from a bare table word. -/
def decodeTableWord (nbits w : Nat) : Option Instr :=
  (decode (tableRequest nbits w)).toOption

end Sys2Proof
end

