-- ==== Sys2Proof/Machine/Arith.lean ====
section
/-! DEFINITION. The literals (R41 to R43 of 30_encoding.md) and the arithmetic primitives (R48 to R54 of
40_arithmetic_primitives.md). Every primitive is total and sets no flag (R55); the block has no flags at all
(R14), so the model has no flag computation. -/

namespace Sys2Proof.Machine

/-- A literal meets a word of width `w` as the integer it spells, reduced modulo `2^w`: zero-extended when
narrower, cut to its low bits when wider, never sign-extended (R42, D7). The literals below are taken as printed:
UNVERIFIED, unsafe, log entry 7. -/
def lit (w : Nat) (n : Nat) : Word w := BitVec.ofNat w n

/-- `c1`, step 1 of `MIX32` (R41). -/
def litC1 : Nat := 0xcc9e2d51
/-- `r1`, the amount of step 2 of `MIX32` (R41). -/
def litR1 : Nat := 15
/-- `c2`, step 3 of `MIX32` (R41). -/
def litC2 : Nat := 0x1b873593
/-- `r2`, the amount of step 5 of `MIX32` (R41). -/
def litR2 : Nat := 13
/-- `five`, the multiplier of step 6 of `MIX32` (R41). -/
def litFive : Nat := 5
/-- `n`, step 6 of `MIX32` and step 7 of `MIX64` (R41, R65). -/
def litN : Nat := 0xe6546b64
/-- `m`, steps 2, 4 and 6 of `MIX64` (R41, R43, R64). -/
def litM : Nat := 0xc6a4a7935bd1e995
/-- `r`, the amount of step 3 of `MIX64` (R41, R64). -/
def litR : Nat := 47
/-- `g`, the constant of `MIXG` (R41). -/
def litG : Nat := 0x9e3779b9
/-- `sl`, the left shift of `MIXG` (R41). -/
def litSl : Nat := 6
/-- `sr`, the right shift of `MIXG` (R41). -/
def litSr : Nat := 2

/-- `add_W(a, b) = (a + b) mod 2^W`; the carry out is discarded (R48). -/
def addW {w : Nat} (a b : Word w) : Word w := a + b

/-- `mul_W(a, b) = (a * b) mod 2^W`; the high half is discarded (R49). -/
def mulW {w : Nat} (a b : Word w) : Word w := a * b

/-- `xor_W(a, b)`, bitwise exclusive or (R50). -/
def xorW {w : Nat} (a b : Word w) : Word w := a ^^^ b

/-- `or_W(a, b)`, bitwise inclusive or (R51). -/
def orW {w : Nat} (a b : Word w) : Word w := a ||| b

/-- `shl_W(a, n) = (a * 2^n) mod 2^W`, which is 0 for `n ≥ W` (R52, D8). -/
def shlW {w : Nat} (a : Word w) (n : Nat) : Word w := a <<< n

/-- `shr_W(a, n) = floor(a / 2^n)`, a logical shift, which is 0 for `n ≥ W` (R53, D8). -/
def shrW {w : Nat} (a : Word w) (n : Nat) : Word w := a >>> n

/-- `rotl32(x, r) = (x << r) | (x >> (32 - r))`, always 32 bits wide (R54, R59). The block uses `r = 15` and
`r = 13`; the definition is the spec's for every `r ≤ 32` (D9). -/
def rotl32 (x : Word 32) (r : Nat) : Word 32 := orW (shlW x r) (shrW x (32 - r))

end Sys2Proof.Machine
end

