-- ==== Sys2Proof/Machine/Mixers.lean ====
section
/-! DEFINITION. The three mixing algorithms and `COMBINE`, as functions of words: R58 of
41_murmur3_32bit_mixer.md, R63 of 42_murmur2_64bit_mixer.md, R68 and R70 of 43_hash_combine_dispatch.md. -/

namespace Sys2Proof.Machine

/-- `MIX32(seed, value)`, one name per step of R58. -/
def mix32 (seed value : Word 32) : Word 32 :=
  let k1 := mulW value (lit 32 litC1)
  let k2 := rotl32 k1 litR1
  let k3 := mulW k2 (lit 32 litC2)
  let h1 := xorW seed k3
  let h2 := rotl32 h1 litR2
  addW (mulW h2 (lit 32 litFive)) (lit 32 litN)

/-- `MIX64(seed, value)`, one name per step of R63. -/
def mix64 (seed value : Word 64) : Word 64 :=
  let k1 := mulW value (lit 64 litM)
  let k2 := xorW k1 (shrW k1 litR)
  let k3 := mulW k2 (lit 64 litM)
  let h1 := xorW seed k3
  let h2 := mulW h1 (lit 64 litM)
  addW h2 (lit 64 litN)

/-- `MIXG_W(seed, value)`, one name per line of R70; the formula is written at every width (R71, D8). -/
def mixg {w : Nat} (seed value : Word w) : Word w :=
  let g := lit w litG
  let a := shlW seed litSl
  let b := shrW seed litSr
  let t := addW (addW (addW value g) a) b
  xorW seed t

/-- `COMBINE(seed, value)` at width `w` (R68). The condition tests the width only, never an operand. Width 0
is refused before this applies (R8): see `decode` and `evaluate`. -/
def combine (w : Nat) (seed value : Word w) : Word w :=
  if h : w = 32 then (mix32 (seed.cast h) (value.cast h)).cast h.symm
  else if h : w = 64 then (mix64 (seed.cast h) (value.cast h)).cast h.symm
  else mixg seed value

/-- `FOLD.W<w> seed0, [v1, ..., vn]` (R46, R76): each result is the next seed; with no values it is `seed0`. -/
def fold (w : Nat) (seed0 : Word w) : List (Word w) → Word w
  | [] => seed0
  | v :: vs => fold w (combine w seed0 v) vs

end Sys2Proof.Machine
end

