-- ==== Sys2Proof/Machine/State.lean ====
section
/-! DEFINITION. The state of the model, its faults and refusals, and the state after reset. The block holds no
state between operations and no history (R10 of 10_state.md): what the model holds is one instance, with its
build-time constants (R7, R38), and the words its caller drives on the two input ports (R19). The output port is no
field: it is a function of these, `State.newSeedO` in Machine/Ops.lean. -/

namespace Sys2Proof.Machine

/-- One instance and the words on its input ports. There are no registers (R12, R16), no program counter (R13), no
flags (R14), no control registers (R15), no memory (R21), no hidden state (R22) and no stored result (R10, R19). -/
structure State where
  /-- The constants of the instance; no operation writes them (R7, R69). DESIGN CHOICE, safe, log entry 1: the spec
  takes `WIDTH` as an argument. -/
  inst : Instance
  /-- The word the caller drives on input port `seed_i` (R19, R24). -/
  seedI : Word inst.width
  /-- The word the caller drives on input port `value_i` (R19, R24). -/
  valueI : Word inst.width
deriving DecidableEq, Repr

/-- Faults: none. The set of exceptions of the block is empty (R79), so the type has no constructor and no
step can answer a fault. Nothing raises one; that is as the spec says, neither safe nor unsafe. -/
inductive Fault : Type
deriving DecidableEq, Repr

/-- Why the model gives a request or an instance no meaning. -/
inductive Refusal where
  /-- An instruction with no meaning yet. No arm of `exec` answers it. Safe. -/
  | notModelled (mnemonic : String)
  /-- `WIDTH = 0` (R8, R44 (a)): raised by the decoder, by a meaning asked to run at width 0, and by
  the output of such an instance. Safe: the spec refuses it. -/
  | illegalWidth
  /-- `alg = 0b11` (R44 (b)): raised by the decoder and by the output of such an instance. Safe: the spec refuses
  it. -/
  | reservedSelector
  /-- The instance's selector code is not the one R38 gives for its width: raised by the decoder and
  by the output of such an instance. Safe: no instance is built so (log entry 5). -/
  | selectorMismatch
  /-- An algorithm, or a width, that is not the one the instance selected: raised by the meanings and by a
  caller's `invoke` and `State.result`. Safe: an instance is one algorithm for ever (R69, log entry 5). -/
  | notSelected
  /-- `new_seed_o` is wired straight to `seed_i` (R97): raised by the meanings and by the output of such an instance.
  Safe: the spec refuses it. -/
  | combinationalFeedback
deriving DecidableEq, Repr

/-- An instance of width `w`, as built, with the two words its inputs carry from the first instant (R93). -/
def State.powerUp (w : Nat) (seed value : Word w) : State :=
  { inst := Instance.build w, seedI := seed, valueI := value }

/-- The state the model starts from. The block has no reset (R92). The width and the inputs are the model's: DESIGN
CHOICE, unsafe, log entry 4. -/
def State.reset : State :=
  State.powerUp Config.resetWidth Config.resetInput Config.resetInput

end Sys2Proof.Machine
end

