-- ==== Sys2Proof/Machine/Ops.lean ====
section
/-! DEFINITION. The named operations on an instance and its ports: what a caller does to the inputs, the request
the instance reads, and the one evaluation that all three algorithms share. No exception is ever taken or
returned from (R83, R84), so there is no such operation. -/

namespace Sys2Proof.Machine

/-- The caller presents two words together (R95). -/
def State.drive (s : State) (seed value : Word s.inst.width) : State :=
  { s with seedI := seed, valueI := value }

/-- The caller changes the word on `seed_i` alone (R95). -/
def State.driveSeed (s : State) (seed : Word s.inst.width) : State :=
  { s with seedI := seed }

/-- The caller changes the word on `value_i` alone (R95). -/
def State.driveValue (s : State) (value : Word s.inst.width) : State :=
  { s with valueI := value }

/-- The request the instance reads: its own constants and the words on its input ports, both taken whole at
one instant (R28, R36). -/
def State.request (s : State) : Request :=
  { width := s.inst.width, alg := s.inst.alg, seed := s.seedI, value := s.valueI }

/-- Why an instance has no meaning, if it has none: an illegal width (R8), the reserved code (R44), a code that is
not the one of the width (DESIGN CHOICE, safe, log entry 5), or an output wired to the seed input (R97). -/
def Instance.refusal (inst : Instance) : Option Refusal :=
  if inst.width = 0 then some .illegalWidth
  else if inst.alg = 0b11#2 then some .reservedSelector
  else if inst.alg ≠ selectorCode inst.width then some .selectorMismatch
  else if inst.seedDriver = .newSeedO then some .combinationalFeedback
  else none

/-- The word on port `new_seed_o`: at every instant `COMBINE` of the words on the inputs, and nothing else (R10,
R18, R19, R93). An instance the spec gives no meaning has no output, only the reason. -/
def State.newSeedO (s : State) : Except Refusal (Word s.inst.width) :=
  match Instance.refusal s.inst with
  | some r => .error r
  | none => .ok (combine s.inst.width s.seedI s.valueI)

/-- The integer on port `new_seed_o` (R20). -/
def State.outputNat (s : State) : Except Refusal Nat := s.newSeedO.map BitVec.toNat

/-- Wire `i` of each port carries bit `i` of its word (R20). -/
def State.seedWire (s : State) (i : Nat) : Bool := s.seedI.getLsbD i
/-- See `State.seedWire`. -/
def State.valueWire (s : State) (i : Nat) : Bool := s.valueI.getLsbD i
/-- See `State.seedWire`. -/
def State.newSeedWire (s : State) (i : Nat) : Except Refusal Bool := s.newSeedO.map (·.getLsbD i)

/-- The refusal that names a decoder's error. -/
def refusalOf : DecodeError → Refusal
  | .illegalWidth => .illegalWidth
  | .reservedSelector => .reservedSelector
  | .selectorMismatch => .selectorMismatch

/-- One evaluation of the algorithm of width `w` and selector code `code` on two operands. The instance must be one
that selected this algorithm (R37, R69) and its seed input must be the caller's (R97). Then the operands are on the
inputs, and the output, which is `State.newSeedO` of that state, is the algorithm's result; nothing is stored (R10,
R18). That an operation presents its own operands is DEDUCED from R36 and R95, safe, log entry 8; the refusal
`notSelected` is a DESIGN CHOICE, safe, log entry 5. -/
def evaluate (w : Nat) (code : BitVec 2) (seed value : Word w) (s : State) :
    Host.Outcome State Fault Refusal :=
  if w = 0 then .refused .illegalWidth
  else if s.inst.seedDriver = .newSeedO then .refused .combinationalFeedback
  else if h : s.inst.width = w then
    if s.inst.alg = code ∧ selectorCode w = code then
      .next (s.drive (seed.cast h.symm) (value.cast h.symm))
    else .refused .notSelected
  else .refused .notSelected

end Sys2Proof.Machine
end

