-- ==== Sys2Proof/Machine/Mix.lean ====
section
/-! DEFINITION. The meanings of the three rows of opcode_table.json. Each puts its operands on the inputs of an
instance of its algorithm; what it computes is then on the output, `State.newSeedO`, as `mixg`, `mix32` or `mix64` of
the operands (Laws/Ops.lean says so once, in `exec_next`). -/

namespace Sys2Proof.Machine

/-- `MIXG.W<w> seed, value` (R70 of 43_hash_combine_dispatch.md), code `0b00`. -/
def execMixg (w : Nat) (seed value : Word w) (s : State) : Host.Outcome State Fault Refusal :=
  evaluate w 0b00#2 seed value s

/-- `MIX32 seed, value` (R58 of 41_murmur3_32bit_mixer.md), code `0b01`. -/
def execMix32 (seed value : Word 32) (s : State) : Host.Outcome State Fault Refusal :=
  evaluate 32 0b01#2 seed value s

/-- `MIX64 seed, value` (R63 of 42_murmur2_64bit_mixer.md), code `0b10`. -/
def execMix64 (seed value : Word 64) (s : State) : Host.Outcome State Fault Refusal :=
  evaluate 64 0b10#2 seed value s

end Sys2Proof.Machine
end

