-- ==== Sys2Proof/Machine/Dispatch.lean ====
section
/-! DEFINITION. One arm per row of opcode_table.json. -/

namespace Sys2Proof.Machine

/-- What each operation does. -/
def exec (i : Instr) (s : State) : Host.Outcome State Fault Refusal :=
  match i with
  | .mixg w seed value => Sys2Proof.Machine.execMixg w seed value s
  | .mix32 seed value => Sys2Proof.Machine.execMix32 seed value s
  | .mix64 seed value => Sys2Proof.Machine.execMix64 seed value s

end Sys2Proof.Machine
end

