-- ==== Sys2Proof/Machine/Fetch.lean ====
section
/-! DEFINITION. How a bare table word comes to stand where the next step reads its request (log entry 3). -/

namespace Sys2Proof.Machine

/-- The instance that a table word's code belongs to, with its two operand words on the input ports. DESIGN
CHOICE, safe, log entry 3. -/
def placeRequest (_ : State) (q : Request) : State :=
  { inst := { width := q.width, alg := q.alg, seedDriver := .caller },
    seedI := q.seed, valueI := q.value }

end Sys2Proof.Machine
end

