-- ==== Sys2Proof/Machine/Step.lean ====
section
/-! DEFINITION. One step: the instance evaluates the request that stands on its ports. -/

namespace Sys2Proof.Machine

/-- One evaluation (R19, R37). There is no program counter: what selects the operation is the instance, and what
it works on are the words present on its inputs. The block has no step relation of its own (R10): where the instance
has a meaning, a step runs the operation on its ports and leaves the state as it is, and elsewhere it refuses by
name. DESIGN CHOICE, safe, log entry 2. -/
def step (s : State) : Host.Outcome State Fault Refusal :=
  match decode s.request with
  | .error e => .refused (refusalOf e)
  | .ok i => exec i s

/-- The state in which the next step runs the operation of a bare table word (log entry 3). -/
def State.withFetchWord (s : State) (nbits w : Nat) : State :=
  placeRequest s (tableRequest nbits w)

end Sys2Proof.Machine
end

