-- ==== Sys2Proof/Machine/Caller.lean ====
section
/-! DEFINITION. What a caller does with an instance: one invocation, callers taking turns (R31 of 20_memory.md),
and the fold protocol (R76 of 43_hash_combine_dispatch.md). The accumulator is the caller's (R16). That the caller
is functions and not state is a DESIGN CHOICE, safe, log entry 10. -/

namespace Sys2Proof.Machine

/-- One invocation: the caller presents two words of the instance's width together, and the block evaluates
(R95). Words of another width fit no port of the instance. -/
def invoke (w : Nat) (seed value : Word w) (s : State) : Host.Outcome State Fault Refusal :=
  if h : s.inst.width = w then step (s.drive (seed.cast h.symm) (value.cast h.symm))
  else .refused .notSelected

/-- The word a caller of width `w` finds on `new_seed_o` at this instant: `COMBINE` of the words present (R95). -/
def State.result (w : Nat) (s : State) : Except Refusal (Word w) :=
  if h : s.inst.width = w then s.newSeedO.map (·.cast h) else .error .notSelected

/-- One invocation with its result, taken while both words are still present (R95), and the state it leaves; or why
it was refused. -/
def call (w : Nat) (seed value : Word w) (s : State) : Except Refusal (Word w × State) :=
  match invoke w seed value s with
  | .next t => (t.result w).map (·, t)
  | .fault r => nomatch r
  | .refused r => .error r

/-- Callers use one instance by turns (R31): each presents its own pair and takes its own result; a refused
request gets none. -/
def serve (w : Nat) : List (Word w × Word w) → State → List (Option (Word w))
  | [], _ => []
  | (seed, value) :: rest, s =>
    match call w seed value s with
    | .ok (r, t) => some r :: serve w rest t
    | .error _ => none :: serve w rest s

/-- A caller's fold (R76): each result becomes the caller's accumulator and the next seed. The answer is the
accumulator and the state of the block, or why an operation was refused. -/
def foldRun (w : Nat) (acc : Word w) : List (Word w) → State → Except Refusal (Word w × State)
  | [], s => .ok (acc, s)
  | v :: vs, s =>
    match call w acc v s with
    | .ok (r, t) => foldRun w r vs t
    | .error r => .error r

end Sys2Proof.Machine
end

