-- ==== Sys2Proof/Safety.lean ====
section
/-! DEFINITION. What counts as a legal instance and as a safe run, in the terms the statements use. -/

namespace Sys2Proof.Machine

/-- An instance that can be built: a legal width (R8), the selector code R38 gives it, and a seed input that is
the caller's (R97). -/
abbrev State.Legal (s : State) : Prop :=
  1 ≤ s.inst.width ∧ s.inst.alg = selectorCode s.inst.width ∧ s.inst.seedDriver = .caller

/-- The output is `COMBINE` of the inputs (R19). -/
abbrev State.Settled (s : State) : Prop :=
  s.newSeedO = .ok (combine s.inst.width s.seedI s.valueI)

/-- The invariant of the machine: a legal instance whose output is `COMBINE` of its inputs. -/
abbrev State.Inv (s : State) : Prop := s.Legal ∧ s.Settled

/-- A safe run: however many steps are taken, the machine neither faults nor refuses (R73). -/
def State.RunsForEver (s : State) : Prop :=
  ∀ k, ∃ t, Sys2Proof.core.run k s = .next t

end Sys2Proof.Machine
end

