-- ==== Sys2Proof/Certificates/Slice0/Obligations.lean ====
section
/-! DEFINITION. The statements about the model, each with the rule of spec/ it formalises. -/

open Sys2Proof Sys2Proof.Machine

/-- The state the model starts from meets the invariant. Its width and input words are the model's choice (log
entry 4); that its output is `COMBINE` of them follows R93. -/
def Obligations.ResetMeetsInvariant : Prop :=
  State.reset.Inv

/-- A legal instance (R8, R38, R97) whose output is `COMBINE` of its inputs (R19) stays one through every step,
every operation in any of its forms, and everything a caller does to the inputs. That a mismatched code is outside the
invariant is the model's choice (log entry 5). -/
def Obligations.StepKeepsInvariant : Prop :=
  ∀ s : State, s.Inv →
    (∀ t, step s = .next t → t.Inv) ∧
    (∀ (i : Instr) (t : State), exec i s = .next t → t.Inv) ∧
    (∀ seed value : Word s.inst.width,
      (s.drive seed value).Inv ∧ (s.driveSeed seed).Inv ∧ (s.driveValue value).Inv) ∧
    (∀ (w : Nat) (acc : Word w) (vs : List (Word w)) (r : Word w) (t : State),
      foldRun w acc vs s = .ok (r, t) → t.Inv)

/-- Decoding the request that presents a well-formed operation gives back that operation, at every width and
with every operand word (R37 to R39). -/
def Obligations.DecodeOfEncodeIsTheOperation : Prop :=
  ∀ i : Instr, i.wellFormed = true → decode (encode i) = .ok i

/-- Whatever request the decoder accepts is the encoding of the operation it reads, which is well-formed: no
request has two readings and none is read loosely (R37 to R39). That a request whose code is not the one of its width
is refused is the model's choice (log entry 5): R44 names only width 0 and code `0b11`. -/
def Obligations.AcceptedRequestIsTheEncoding : Prop :=
  ∀ (q : Request) (i : Instr), decode q = .ok i → i.wellFormed = true ∧ encode i = q

/-- The selection is total on legal widths, picks exactly one algorithm for each, and is a function of the width
alone, whatever the operands (R37). A request is accepted exactly when its width is legal and its code is the one of
that width: the spelling of the codes is the spec's decision D6 (R38), and the refusal of a code that is not the
width's is the model's choice (log entry 5). -/
def Obligations.SelectionIsByWidthAlone : Prop :=
  (∀ (w : Nat) (seed value : Word w), 1 ≤ w →
    ∃ i, decode { width := w, alg := if w = 32 then 0b01#2 else if w = 64 then 0b10#2 else 0b00#2,
                  seed := seed, value := value } = .ok i ∧
      i.algorithm = (if w = 32 then .mix32 else if w = 64 then .mix64 else .mixg) ∧
      i.width = w ∧ i.seed.toNat = seed.toNat ∧ i.value.toNat = value.toNat) ∧
  (∀ q : Request, (∃ i, decode q = .ok i) ↔
    1 ≤ q.width ∧ q.alg = if q.width = 32 then 0b01#2 else if q.width = 64 then 0b10#2 else 0b00#2)

/-- Some requests written out from section 3 of 30_encoding.md decode to the operations they stand for. -/
def Obligations.WrittenRequestsDecode : Prop :=
  (∀ seed value : Word 32, decode ⟨32, 0b01#2, seed, value⟩ = .ok (.mix32 seed value)) ∧
  (∀ seed value : Word 64, decode ⟨64, 0b10#2, seed, value⟩ = .ok (.mix64 seed value)) ∧
  (∀ seed value : Word 31, decode ⟨31, 0b00#2, seed, value⟩ = .ok (.mixg 31 seed value)) ∧
  (∀ seed value : Word 65, decode ⟨65, 0b00#2, seed, value⟩ = .ok (.mixg 65 seed value)) ∧
  (∀ seed value : Word 1, decode ⟨1, 0b00#2, seed, value⟩ = .ok (.mixg 1 seed value))

/-- A step runs the operation that the words on the ports decode to, and that operation is well-formed and has
those words as its operands: there is nothing around it, no program counter to move (R13). Where the words on the
ports do not decode, the step refuses by the decoder's reason. What a step is, and that it refuses so, is the model's
choice (log entry 2), since R10 gives no step relation; so is the refusal of a mismatched code (log entry 5). -/
def Obligations.StepRunsTheDecodedOperation : Prop :=
  (∀ (s : State) (i : Instr), decode s.request = .ok i →
    step s = exec i s ∧ i.wellFormed = true ∧ i.width = s.inst.width ∧
    i.seed.toNat = s.seedI.toNat ∧ i.value.toNat = s.valueI.toNat) ∧
  (∀ (s : State) (e : DecodeError), decode s.request = .error e → step s = .refused (refusalOf e))

/-- A table word placed for fetching is what the next step runs, and it completes (the model's convention, log
entry 3). -/
def Obligations.PlacedTableWordRunsNext : Prop :=
  ∀ (s : State) (nbits w : Nat) (i : Instr), decodeTableWord nbits w = some i →
    step (s.withFetchWord nbits w) = exec i (s.withFetchWord nbits w) ∧
    ∃ t, exec i (s.withFetchWord nbits w) = .next t

/-- R44: `WIDTH = 0` is refused; the code `0b11` is refused; every pair of words is a legal request of a legal
instance; and a request is accepted only under one of the three codes of the table. The refusals are the spec's
decisions D4 and D6; that a step is what they stop is the model's choice (log entry 2). -/
def Obligations.ReservedValuesRefused : Prop :=
  (∀ s : State, s.inst.width = 0 → step s = .refused .illegalWidth) ∧
  (∀ (s : State) (seed value : Word 0), exec (.mixg 0 seed value) s = .refused .illegalWidth) ∧
  (∀ s : State, 1 ≤ s.inst.width → s.inst.alg = 0b11#2 → step s = .refused .reservedSelector) ∧
  (∀ (s : State) (seed value : Word s.inst.width), s.Legal → ∃ t, step (s.drive seed value) = .next t) ∧
  (∀ (q : Request) (i : Instr), decode q = .ok i → q.alg = 0b00#2 ∨ q.alg = 0b01#2 ∨ q.alg = 0b10#2)

/-- An instance whose output is wired straight to its seed input is refused (R97, the spec's decision D17): no step
of it and no operation on it completes, it has no output, and where the rest of the instance is legal the refusal says
why. The field that holds the wiring is the model's (log entry 6), and so is the step that refuses for that reason (log
entry 2). -/
def Obligations.FeedbackWiringRefused : Prop :=
  ∀ s : State, s.inst.seedDriver = .newSeedO →
    (∀ t, step s ≠ .next t) ∧ (∀ (i : Instr) (t : State), exec i s ≠ .next t) ∧ (∀ r, s.newSeedO ≠ .ok r) ∧
    (1 ≤ s.inst.width → s.inst.alg = selectorCode s.inst.width →
      step s = .refused .combinationalFeedback ∧ s.newSeedO = .error .combinationalFeedback)

/-- On a legal instance an operation completes exactly where it is well-formed and of the instance's width, and
is refused by name elsewhere (R69; the refusal is the model's, log entry 5). -/
def Obligations.OperationCompletesExactlyWhereSelected : Prop :=
  ∀ (i : Instr) (s : State), s.Legal →
    ((∃ t, exec i s = .next t) ↔ i.wellFormed = true ∧ i.width = s.inst.width) ∧
    (i.width ≠ 0 → ¬ (i.wellFormed = true ∧ i.width = s.inst.width) → exec i s = .refused .notSelected)

/-- R58: `MIX32` completes on every legal instance of width 32, with every pair of operands, leaves the instance
as it is, and its result on the output port is the rule's expression over the integers. -/
def Obligations.Mix32ResultFollowsItsSteps : Prop :=
  ∀ (s : State) (seed value : Word 32), s.Legal → s.inst.width = 32 →
    ∃ t, exec (.mix32 seed value) s = .next t ∧ t.inst = s.inst ∧
      t.outputNat = .ok (
        let k1 := (value.toNat * 3432918353) % 2 ^ 32
        let k2 := (k1 * 2 ^ 15) % 2 ^ 32 ||| k1 / 2 ^ 17
        let k3 := (k2 * 461845907) % 2 ^ 32
        let h1 := seed.toNat ^^^ k3
        let h2 := (h1 * 2 ^ 13) % 2 ^ 32 ||| h1 / 2 ^ 19
        (5 * h2 + 3864292196) % 2 ^ 32)

/-- R63: `MIX64` completes on every legal instance of width 64, with every pair of operands, leaves the instance
as it is, and its result on the output port is the rule's expression over the integers. -/
def Obligations.Mix64ResultFollowsItsSteps : Prop :=
  ∀ (s : State) (seed value : Word 64), s.Legal → s.inst.width = 64 →
    ∃ t, exec (.mix64 seed value) s = .next t ∧ t.inst = s.inst ∧
      t.outputNat = .ok (
        let m := 14313749767032793493
        let k1 := (value.toNat * m) % 2 ^ 64
        let k2 := k1 ^^^ k1 / 2 ^ 47
        let k3 := (k2 * m) % 2 ^ 64
        let h1 := seed.toNat ^^^ k3
        ((h1 * m) % 2 ^ 64 + 3864292196) % 2 ^ 64)

/-- R70: `MIXG` completes on every legal instance of its width, at every width other than 32 and 64, with every
pair of operands, leaves the instance as it is, and its result on the output port is the rule's expression over the
integers. -/
def Obligations.MixgResultFollowsItsSteps : Prop :=
  ∀ (w : Nat) (s : State) (seed value : Word w), w ≠ 32 → w ≠ 64 → s.Legal → s.inst.width = w →
    ∃ t, exec (.mixg w seed value) s = .next t ∧ t.inst = s.inst ∧
      t.outputNat = .ok (
        seed.toNat ^^^
          (value.toNat + 2654435769 + (seed.toNat * 64) % 2 ^ w + seed.toNat / 4) % 2 ^ w)

/-- R68: one evaluation of a legal instance gives `MIX32`, `MIX64` or `MIXG` of the words on its inputs, by its
width alone, and cannot fail. -/
def Obligations.StepComputesCombineByWidth : Prop :=
  ∀ s : State, s.Legal →
    ∃ t, step s = .next t ∧
      (s.inst.width = 32 →
        t.outputNat = .ok (mix32 (s.seedI.setWidth 32) (s.valueI.setWidth 32)).toNat) ∧
      (s.inst.width = 64 →
        t.outputNat = .ok (mix64 (s.seedI.setWidth 64) (s.valueI.setWidth 64)).toNat) ∧
      (s.inst.width ≠ 32 → s.inst.width ≠ 64 →
        t.outputNat = .ok (mixg s.seedI s.valueI).toNat)

/-- What `MIXG`, `MIX32` and `MIX64` leave unchanged: where one completes, the constants of the instance, `WIDTH`
among them, are as before (R7), and the inputs carry its operands, whatever words they carried before. The model has
no other state (R10). That the operands are on the inputs afterwards is DEDUCED (log entry 8). -/
def Obligations.OperationWritesOnlyThePorts : Prop :=
  ∀ (i : Instr) (s t : State), exec i s = .next t →
    t.inst = s.inst ∧ t.inst.width = i.width ∧
    t.seedI.toNat = i.seed.toNat ∧ t.valueI.toNat = i.value.toNat

/-- Where an operation completes, in any state whatever, the output is `COMBINE` of its own operands (R18, R19), and
of the words then on the inputs; that the operation presents its operands there is DEDUCED (log entry 8). -/
def Obligations.OperationOutputIsCombineOfItsOperands : Prop :=
  ∀ (i : Instr) (s t : State), exec i s = .next t →
    t.outputNat = .ok (combine i.width i.seed i.value).toNat ∧ t.Settled

/-- However long the machine runs, from any state, it ends in the state it started from: the instance stays the
one it was (R7, R69), and nothing of the evaluations is kept (R10; log entry 2). -/
def Obligations.RunKeepsTheInstance : Prop :=
  ∀ (k : Nat) (s t : State), Sys2Proof.core.run k s = .next t → t = s

/-- R73: at every legal width, with every pair of words on the inputs, an evaluation answers a word, and the
machine never faults and never refuses, however often it evaluates. -/
def Obligations.LegalInstanceNeverStops : Prop :=
  ∀ (s : State) (seed value : Word s.inst.width), s.Legal →
    (∃ t, step (s.drive seed value) = .next t ∧
      t.outputNat = .ok (combine s.inst.width seed value).toNat) ∧
    (s.drive seed value).RunsForEver

/-- R11: for one width, two calls with equal operands give equal results, whatever the two instances
carried on their ports before. -/
def Obligations.ResultDependsOnlyOnWidthAndOperands : Prop :=
  ∀ (w : Nat) (seed value : Word w) (s s' : State),
    s.Legal → s'.Legal → s.inst.width = w → s'.inst.width = w →
    ∃ r t t', call w seed value s = .ok (r, t) ∧ call w seed value s' = .ok (r, t')

/-- Evaluating the same operands again changes nothing (R28), from any state in which the first evaluation
completes; a step leaves the inputs as they are (R17) and keeps nothing (R10; log entry 2). -/
def Obligations.RepeatedStepChangesNothing : Prop :=
  (∀ s t : State, step s = .next t → t = s ∧ step t = .next t) ∧
  (∀ (i : Instr) (s t : State), exec i s = .next t → exec i t = .next t)

/-- Callers who use one instance by turns each get `COMBINE` of their own words, whatever the others asked, in
whatever order (R31). That the caller is a function of the model is its choice (log entry 10). -/
def Obligations.CallersByTurnsGetTheirOwnResults : Prop :=
  ∀ (w : Nat) (s : State) (requests : List (Word w × Word w)), s.Legal → s.inst.width = w →
    serve w requests s = requests.map (fun p => some (combine w p.1 p.2))

/-- R76: a caller's fold through a legal instance gives `a(n)` with `a0 = SEED0` and `a(i) = COMBINE(a(i-1), v(i))`,
whatever `SEED0` (D19); a value added at the end is one more operation; with no values the fold is `SEED0` and the
block is not used, which is the spec's own derivation. That the caller is a function of the model is its choice (log
entry 10). -/
def Obligations.FoldChainsOperations : Prop :=
  ∀ (w : Nat) (s : State) (seed0 : Word w), s.Legal → s.inst.width = w →
    foldRun w seed0 [] s = .ok (seed0, s) ∧
    (∀ vs : List (Word w), ∃ t, foldRun w seed0 vs s = .ok (vs.foldl (combine w) seed0, t) ∧ t.inst = s.inst) ∧
    (∀ (vs : List (Word w)) (v : Word w), ∃ a t t',
      foldRun w seed0 vs s = .ok (a, t) ∧ foldRun w seed0 (vs ++ [v]) s = .ok (combine w a v, t'))

/-- Folding 1 then 2 and folding 2 then 1 from seed 0 give different results at widths 32, 64 and 16, on every
legal instance; and `COMBINE` is not symmetric at 32 and 64. These are the instances the spec derives in R75; the
source claims no law for all operands. The fold is made by the model's caller (log entry 10). -/
def Obligations.FoldOrderMatters : Prop :=
  (∀ s : State, s.Legal → s.inst.width = 32 → ∃ t t',
    foldRun 32 0 [1, 2] s = .ok (0x95746b8e#32, t) ∧ foldRun 32 0 [2, 1] s = .ok (0x8d329bf3#32, t')) ∧
  (∀ s : State, s.Legal → s.inst.width = 64 → ∃ t t',
    foldRun 64 0 [1, 2] s = .ok (0x2ec71ff6f0486f3c#64, t) ∧
    foldRun 64 0 [2, 1] s = .ok (0x22eb7962ec6d3ef4#64, t')) ∧
  (∀ s : State, s.Legal → s.inst.width = 16 → ∃ t t',
    foldRun 16 0 [1, 2] s = .ok (0x7f13#16, t) ∧ foldRun 16 0 [2, 1] s = .ok (0x7f53#16, t')) ∧
  combine 32 1 2 ≠ combine 32 2 1 ∧ combine 64 1 2 ≠ combine 64 2 1

/-- R95, R19 and R93: at every instant the output is `COMBINE` of the two words present. A caller that presents two
words together finds `COMBINE` of them at once, one that changes one input only finds `COMBINE` of the words actually
present: these clauses follow the spec's decisions D1 and D2. That a step of each driven state changes nothing is the
model's choice (log entry 2). -/
def Obligations.ChangedInputIsCombinedAsPresent : Prop :=
  ∀ (s : State) (seed value : Word s.inst.width), s.Legal →
    s.newSeedO = .ok (combine s.inst.width s.seedI s.valueI) ∧
    (s.drive seed value).result s.inst.width = .ok (combine s.inst.width seed value) ∧
    (s.driveSeed seed).result s.inst.width = .ok (combine s.inst.width seed s.valueI) ∧
    (s.driveValue value).result s.inst.width = .ok (combine s.inst.width s.seedI value) ∧
    step (s.drive seed value) = .next (s.drive seed value) ∧
    step (s.driveSeed seed) = .next (s.driveSeed seed) ∧
    step (s.driveValue value) = .next (s.driveValue value)

/-- A power-up with any words on the inputs, at any legal width, needs no initialisation: the output is `COMBINE` of
them from the first instant (R93, the spec's decision D13). That a step of the power-up state answers that same state
is the model's choice (log entry 2). -/
def Obligations.PowerUpNeedsNoInitialisation : Prop :=
  ∀ (w : Nat) (seed value : Word w), 1 ≤ w →
    (State.powerUp w seed value).newSeedO = .ok (combine w seed value) ∧
    step (State.powerUp w seed value) = .next (State.powerUp w seed value)

/-- R20: the value on each port is the sum of its wires' weights, wire `i` weighing `2^i`; the last wire is the
most significant and wire 0 the least. The numbering is the spec's decision D3. -/
def Obligations.PortWiresCarryWeights : Prop :=
  ∀ s : State,
    s.seedI.toNat = (Finset.range s.inst.width).sum (fun i => (s.seedWire i).toNat * 2 ^ i) ∧
    s.valueI.toNat = (Finset.range s.inst.width).sum (fun i => (s.valueWire i).toNat * 2 ^ i) ∧
    (s.Legal → ∃ r, s.newSeedO = .ok r ∧ (∀ i, s.newSeedWire i = .ok (r.getLsbD i)) ∧
      s.outputNat = .ok ((Finset.range s.inst.width).sum (fun i => (r.getLsbD i).toNat * 2 ^ i))) ∧
    (1 ≤ s.inst.width →
      (s.seedWire (s.inst.width - 1) = true ↔ 2 ^ (s.inst.width - 1) ≤ s.seedI.toNat) ∧
      (s.seedWire 0 = true ↔ s.seedI.toNat % 2 = 1))

/-- R42: a literal enters the arithmetic as the integer it spells; narrower than the word it is zero-extended,
wider than the word only its low bits matter, and the literals of `MIX32` and the `m` of `MIX64` fit as written.
The reading is the spec's decision D7 (log entry 7). -/
def Obligations.LiteralsEnterAsIntegers : Prop :=
  (∀ (w n : Nat) (a : Word w),
    (addW a (lit w n)).toNat = (a.toNat + n) % 2 ^ w ∧ (mulW a (lit w n)).toNat = (a.toNat * n) % 2 ^ w) ∧
  (∀ w k n i : Nat, n < 2 ^ k → k ≤ w →
    (lit w n).toNat = n ∧ (k ≤ i → (lit w n).getLsbD i = false)) ∧
  (∀ w n : Nat, (lit w n).toNat = n % 2 ^ w) ∧
  lit 64 litN = 0x00000000e6546b64#64 ∧ (∀ w, 32 < w → (lit w litG).toNat = 0x9e3779b9) ∧
  lit 16 litG = 0x79b9#16 ∧ lit 8 litG = 0xb9#8 ∧
  (lit 32 litC1).toNat = litC1 ∧ (lit 32 litC2).toNat = litC2 ∧ (lit 32 litFive).toNat = litFive ∧
  (lit 32 litN).toNat = litN ∧ (lit 64 litM).toNat = litM

/-- R48: addition is modulo `2^W`, with its corner cases; commutativity and associativity are the spec's own
derivation. -/
def Obligations.AdditionWraps : Prop :=
  (∀ (w : Nat) (a b c : Word w),
    (addW a b).toNat = (a.toNat + b.toNat) % 2 ^ w ∧ addW a 0 = a ∧
    addW (lit w (2 ^ w - 1)) (lit w 1) = 0 ∧
    addW a b = addW b a ∧ addW (addW a b) c = addW a (addW b c)) ∧
  addW 0xfffffffb#32 0xe6546b64#32 = 0xe6546b5f#32

/-- R49: multiplication keeps the low `W` bits of the product; that signed and unsigned reading agree there, that
an odd multiplier is a bijection and that every multiplier of the block is odd are the spec's own derivations. -/
def Obligations.MultiplicationKeepsTheLowHalf : Prop :=
  (∀ (w : Nat) (a b : Word w),
    (mulW a b).toNat = (a.toNat * b.toNat) % 2 ^ w ∧ mulW a b = BitVec.ofInt w (a.toInt * b.toInt) ∧
    mulW a 0 = 0 ∧ mulW a (lit w 1) = a ∧
    (1 ≤ w → mulW (lit w (2 ^ (w - 1))) b = if b.toNat % 2 = 1 then lit w (2 ^ (w - 1)) else 0) ∧
    (b.toNat % 2 = 1 → Function.Bijective (fun x : Word w => mulW x b))) ∧
  litC1 % 2 = 1 ∧ litC2 % 2 = 1 ∧ litFive % 2 = 1 ∧ litM % 2 = 1 ∧
  mulW 0x00000001#32 0xcc9e2d51#32 = 0xcc9e2d51#32 ∧ mulW 0xffffffff#32 0xcc9e2d51#32 = 0x3361d2af#32

/-- R50: exclusive or, bit by bit, with its corner cases and its example. -/
def Obligations.ExclusiveOrComparesBits : Prop :=
  (∀ (w : Nat) (a b : Word w) (i : Nat), i < w →
    ((xorW a b).getLsbD i = true ↔ a.getLsbD i ≠ b.getLsbD i)) ∧
  (∀ (w : Nat) (a : Word w), xorW a 0 = a ∧ xorW a a = 0 ∧ xorW a (lit w (2 ^ w - 1)) = ~~~a) ∧
  xorW 0x12345678#32 0x75c3abab#32 = 0x67f7fdd3#32

/-- R51: inclusive or, bit by bit. Inside the rotate its two operands share no bit, so that or, exclusive or and
sum agree there; that clause is the spec's own derivation (marked so in R51; conflict C4). -/
def Obligations.InclusiveOrJoinsDisjointBitsInTheRotate : Prop :=
  (∀ (w : Nat) (a b : Word w) (i : Nat), i < w →
    ((orW a b).getLsbD i = true ↔ a.getLsbD i = true ∨ b.getLsbD i = true)) ∧
  (∀ (x : Word 32) (r : Nat), 1 ≤ r → r ≤ 31 →
    orW (shlW x r) (shrW x (32 - r)) = xorW (shlW x r) (shrW x (32 - r)) ∧
    orW (shlW x r) (shrW x (32 - r)) = addW (shlW x r) (shrW x (32 - r))) ∧
  orW 0x2b3c0000#32 0x0000091a#32 = 0x2b3c091a#32

/-- R52 and R53: the shifts, for every amount; the right shift is logical. That an amount of the width or more gives
0 is the spec's decision D8. -/
def Obligations.ShiftsAreTotalAndLogical : Prop :=
  (∀ (w : Nat) (a : Word w) (n : Nat),
    (shlW a n).toNat = (a.toNat * 2 ^ n) % 2 ^ w ∧ (shrW a n).toNat = a.toNat / 2 ^ n ∧
    shlW a 0 = a ∧ shrW a 0 = a ∧ (w ≤ n → shlW a n = 0 ∧ shrW a n = 0) ∧
    (∀ i, i < n → (shlW a n).getLsbD i = false) ∧ (∀ i, w ≤ i + n → (shrW a n).getLsbD i = false)) ∧
  (∀ a : Word 64, (shrW a 47).toNat < 2 ^ 17 ∧ ∀ i, i < 17 → (shrW a 47).getLsbD i = a.getLsbD (i + 47)) ∧
  shlW 0x12#8 6 = 0x80#8 ∧ shlW 0x1f#5 6 = 0x00#5 ∧
  shrW 0xc6a4a7935bd1e995#64 47 = 0x0000000000018d49#64 ∧ shrW 0xff#8 2 = 0x3f#8

/-- R54: the rotate moves bit `i` to bit `(i + r) mod 32`, and is a bijection whose inverse is the rotate by
`32 - r`; that the amounts 0 and 32 change nothing is the spec's decision D9. -/
def Obligations.RotateMovesEveryBit : Prop :=
  (∀ (x : Word 32) (r : Nat), r ≤ 32 →
    (rotl32 x r).toNat = ((x.toNat * 2 ^ r) % 2 ^ 32 ||| x.toNat / 2 ^ (32 - r)) ∧
    (∀ i, i < 32 → (rotl32 x r).getLsbD ((i + r) % 32) = x.getLsbD i) ∧
    rotl32 (rotl32 x r) (32 - r) = x ∧ Function.Bijective (fun y => rotl32 y r) ∧
    rotl32 0 r = 0 ∧ rotl32 0xffffffff#32 r = 0xffffffff#32) ∧
  (∀ x : Word 32, rotl32 x 0 = x ∧ rotl32 x 32 = x) ∧
  rotl32 0x80000000#32 1 = 0x00000001#32 ∧ rotl32 0x12345678#32 15 = 0x2b3c091a#32 ∧
  rotl32 0x12345678#32 13 = 0x8acf0246#32 ∧ rotl32 0x80000001#32 15 = 0x0000c000#32

/-- R57: the identities (a) to (e), which the spec marks as its own derivations. -/
def Obligations.ArithmeticIdentities : Prop :=
  (∀ (w : Nat) (h : Word w), mulW h (lit w 5) = addW (shlW h 2) h) ∧
  (∀ (w n : Nat) (h : Word w), (addW (mulW h (lit w 5)) (lit w n)).toNat = (5 * h.toNat + n) % 2 ^ w) ∧
  (∀ (x : Word 32) (r : Nat), 1 ≤ r → r ≤ 31 →
    (rotl32 x r).toNat = (x.toNat % 2 ^ (32 - r)) * 2 ^ r + x.toNat / 2 ^ (32 - r)) ∧
  (∀ k : Word 64,
    shrW (xorW k (shrW k 47)) 47 = shrW k 47 ∧
    xorW (xorW k (shrW k 47)) (shrW (xorW k (shrW k 47)) 47) = k) ∧
  Function.Bijective (fun k : Word 64 => xorW k (shrW k 47)) ∧
  (∀ (w : Nat) (a b : Int),
    addW (BitVec.ofInt w a) (BitVec.ofInt w b) = BitVec.ofInt w (a + b) ∧
    mulW (BitVec.ofInt w a) (BitVec.ofInt w b) = BitVec.ofInt w (a * b))

/-- R60: `MIX32` on zero operands; all but the source's "must NOT equal 0" is the spec's own derivation. -/
def Obligations.Mix32OnZeroOperands : Prop :=
  mix32 0 0 = 0xe6546b64#32 ∧ mix32 0 0 ≠ 0 ∧
  (∀ seed : Word 32, mix32 seed 0 = addW (mulW (rotl32 seed 13) 5#32) 0xe6546b64#32) ∧
  mix32 0x87602912#32 0 = 0x00000000#32

/-- R61: `MIX32` is a bijection in each operand, so equal results with one operand equal have the other equal,
and it is not symmetric. The spec marks all of it as its own derivation. -/
def Obligations.Mix32BijectiveInEachOperand : Prop :=
  (∀ seed : Word 32, Function.Bijective (fun value => mix32 seed value)) ∧
  (∀ value : Word 32, Function.Bijective (fun seed => mix32 seed value)) ∧
  (∀ s v v' : Word 32, mix32 s v = mix32 s v' → v = v') ∧
  (∀ s s' v : Word 32, mix32 s v = mix32 s' v → s = s') ∧
  mix32 1 2 = 0x7749decb#32 ∧ mix32 2 1 = 0x26d04576#32

/-- R66: `MIX64` on zero operands; all but the source's "must NOT equal 0" is the spec's own derivation. -/
def Obligations.Mix64OnZeroOperands : Prop :=
  mix64 0 0 = 0x00000000e6546b64#64 ∧ mix64 0 0 ≠ 0 ∧
  (∀ seed : Word 64, mix64 seed 0 = addW (mulW seed 0xc6a4a7935bd1e995#64) 0xe6546b64#64) ∧
  mix64 0x08d1696e3ba3f32c#64 0 = 0x0000000000000000#64 ∧
  mix64 0x8000000000000000#64 0 = 0x80000000e6546b64#64

/-- `MIX64` is a bijection in each operand, is not symmetric, and is no extension of `MIX32` (R67 (a) to (d), the
spec's own derivation). -/
def Obligations.Mix64BijectiveInEachOperand : Prop :=
  (∀ seed : Word 64, Function.Bijective (fun value => mix64 seed value)) ∧
  (∀ value : Word 64, Function.Bijective (fun seed => mix64 seed value)) ∧
  mix64 1 2 = 0x5cfa8f1ece719af1#64 ∧ mix64 2 1 = 0x49271a825364e18a#64 ∧
  mix64 0x12345678#64 0x9abcdef0#64 ≠ (mix32 0x12345678#32 0x9abcdef0#32).setWidth 64

/-- R71: `MIXG` at small and large widths: its constant, and the shifts that vanish. The spec derives it, from its
decisions D7 and D8. -/
def Obligations.MixgAtSmallAndLargeWidths : Prop :=
  (∀ w : Nat, w < 32 → (lit w litG).toNat = 0x9e3779b9 % 2 ^ w) ∧
  lit 31 litG = 0x1e3779b9#31 ∧ lit 16 litG = 0x79b9#16 ∧ lit 8 litG = 0xb9#8 ∧ lit 7 litG = 0x39#7 ∧
  lit 6 litG = 0x39#6 ∧ lit 5 litG = 0x19#5 ∧ lit 4 litG = 0x9#4 ∧ lit 3 litG = 0x1#3 ∧
  lit 2 litG = 0x1#2 ∧ lit 1 litG = 0x1#1 ∧
  (∀ w : Nat, 1 ≤ w → (lit w litG).toNat % 2 = 1) ∧
  (∀ w : Nat, 32 < w → (lit w litG).toNat = 0x9e3779b9) ∧
  (∀ (w : Nat) (seed value : Word w), w ≤ 6 →
    shlW seed 6 = 0 ∧ mixg seed value = xorW seed (addW (addW value (lit w litG)) (shrW seed 2))) ∧
  (∀ (w : Nat) (seed value : Word w), w ≤ 2 →
    shrW seed 2 = 0 ∧ mixg seed value = xorW seed (addW value (lit w 1))) ∧
  (∀ seed value : Word 1, mixg seed value = xorW (xorW seed value) 1)

/-- R72: `MIXG` of zeros is odd, `MIXG` is a bijection in the value but need not be one in the seed, and the
generic formula is not what an instance of width 32 or 64 computes. The spec marks it as its own derivation. -/
def Obligations.MixgBijectiveInTheValueOnly : Prop :=
  (∀ w : Nat, 1 ≤ w →
    (mixg (0 : Word w) 0).toNat = 0x9e3779b9 % 2 ^ w ∧ (mixg (0 : Word w) 0).toNat % 2 = 1) ∧
  (∀ (w : Nat) (seed : Word w), Function.Bijective (fun value => mixg seed value)) ∧
  mixg 0x19#8 0x00#8 = 0xe6#8 ∧ mixg 0x24#8 0x00#8 = 0xe6#8 ∧
  ¬ Function.Bijective (fun seed => mixg seed 0x00#8) ∧
  mixg 0#32 0#32 = 0x9e3779b9#32 ∧ combine 32 0 0 = 0xe6546b64#32 ∧ combine 64 0 0 ≠ mixg 0 0 ∧
  (∀ seed value : Word 32, combine 32 seed value = mix32 seed value) ∧
  (∀ seed value : Word 64, combine 64 seed value = mix64 seed value)

/-- R74: `COMBINE(0, 0)` is not 0 at any legal width. The source requires it at 32 and 64; at the other widths it
is the spec's own derivation. -/
def Obligations.CombineOfZerosIsNotZero : Prop :=
  (∀ w : Nat, 1 ≤ w → combine w 0 0 ≠ 0) ∧
  combine 32 0 0 = 0xe6546b64#32 ∧ combine 64 0 0 = 0x00000000e6546b64#64 ∧
  (∀ w : Nat, 1 ≤ w → w ≠ 32 → w ≠ 64 →
    (combine w 0 0).toNat = 0x9e3779b9 % 2 ^ w ∧ (combine w 0 0).toNat % 2 = 1) ∧
  (∃ seed value : Word 32, combine 32 seed value = 0) ∧ (∃ seed value : Word 64, combine 64 seed value = 0)

/-- For any wanted result and any seed, exactly one value makes a legal instance produce it; and at widths 32 and
64, for any value exactly one seed does (R78, with R61, R67, R72: the spec's own derivations). -/
def Obligations.EveryResultHasExactlyOneCause : Prop :=
  ∀ s : State, s.Legal → ∀ target : Word s.inst.width,
    (∀ seed : Word s.inst.width, ∃! value : Word s.inst.width,
      ∃ t, step (s.drive seed value) = .next t ∧ t.outputNat = .ok target.toNat) ∧
    (s.inst.width = 32 ∨ s.inst.width = 64 → ∀ value : Word s.inst.width, ∃! seed : Word s.inst.width,
      ∃ t, step (s.drive seed value) = .next t ∧ t.outputNat = .ok target.toNat)

/-- Flipping one bit of the value always changes the result, at every legal width (the exact part of R77, the
spec's own inference from the bijections). -/
def Obligations.FlippedValueBitChangesTheResult : Prop :=
  ∀ (s : State) (seed value : Word s.inst.width) (i : Nat), s.Legal → i < s.inst.width →
    ∃ t t' n n', step (s.drive seed value) = .next t ∧ t.outputNat = .ok n ∧
      step (s.drive seed (value ^^^ BitVec.twoPow s.inst.width i)) = .next t' ∧ t'.outputNat = .ok n' ∧
      n ≠ n'

/-- A step refuses exactly the instances that have no output, and for the same reason; it completes exactly where the
instance is legal, and the output is `COMBINE` of the inputs exactly there. That width 0, code `0b11` and an output wired
to the seed input have no meaning is R8, R44 and R97, and the output elsewhere is R19. That a step refuses for the very
reason the block has no output is the model's choice (log entry 2), and so are the refusal of a mismatched code (log
entry 5) and the field that holds the wiring (log entry 6). -/
def Obligations.StepRefusesWhatHasNoOutput : Prop :=
  ∀ s : State,
    (∀ r, step s = .refused r ↔ s.newSeedO = .error r) ∧
    (s.Legal ↔ ∃ t, step s = .next t) ∧ (s.Legal ↔ s.Settled)
end

