-- ==== Sys2Proof/Laws/Arith.lean ====
section
/-! SUPPORT. The primitives as operations on integers, and `COMBINE` at each kind of width. -/

namespace Sys2Proof.Machine

@[simp] theorem lit_toNat (w n : Nat) : (lit w n).toNat = n % 2 ^ w := BitVec.toNat_ofNat n w

@[simp] theorem addW_toNat {w : Nat} (a b : Word w) : (addW a b).toNat = (a.toNat + b.toNat) % 2 ^ w :=
  BitVec.toNat_add a b

@[simp] theorem mulW_toNat {w : Nat} (a b : Word w) : (mulW a b).toNat = (a.toNat * b.toNat) % 2 ^ w :=
  BitVec.toNat_mul a b

@[simp] theorem xorW_toNat {w : Nat} (a b : Word w) : (xorW a b).toNat = a.toNat ^^^ b.toNat :=
  BitVec.toNat_xor a b

@[simp] theorem orW_toNat {w : Nat} (a b : Word w) : (orW a b).toNat = a.toNat ||| b.toNat :=
  BitVec.toNat_or a b

@[simp] theorem shlW_toNat {w : Nat} (a : Word w) (n : Nat) : (shlW a n).toNat = (a.toNat * 2 ^ n) % 2 ^ w := by
  rw [shlW, BitVec.toNat_shiftLeft, Nat.shiftLeft_eq]

@[simp] theorem shrW_toNat {w : Nat} (a : Word w) (n : Nat) : (shrW a n).toNat = a.toNat / 2 ^ n := by
  rw [shrW, BitVec.toNat_ushiftRight, Nat.shiftRight_eq_div_pow]

theorem rotl32_toNat (x : Word 32) (r : Nat) :
    (rotl32 x r).toNat = (x.toNat * 2 ^ r) % 2 ^ 32 ||| x.toNat / 2 ^ (32 - r) := by
  rw [rotl32, orW_toNat, shlW_toNat, shrW_toNat]

theorem combine_of_eq_32 {w : Nat} (h : w = 32) (seed value : Word w) :
    combine w seed value = (mix32 (seed.cast h) (value.cast h)).cast h.symm := by
  rw [combine, dif_pos h]

theorem combine_of_eq_64 {w : Nat} (h : w = 64) (seed value : Word w) :
    combine w seed value = (mix64 (seed.cast h) (value.cast h)).cast h.symm := by
  rw [combine, dif_neg (by omega), dif_pos h]

@[simp] theorem combine_32 (seed value : Word 32) : combine 32 seed value = mix32 seed value := by
  rw [combine_of_eq_32 rfl, BitVec.cast_eq, BitVec.cast_eq, BitVec.cast_eq]

@[simp] theorem combine_64 (seed value : Word 64) : combine 64 seed value = mix64 seed value := by
  rw [combine_of_eq_64 rfl, BitVec.cast_eq, BitVec.cast_eq, BitVec.cast_eq]

theorem combine_generic {w : Nat} (h32 : w ≠ 32) (h64 : w ≠ 64) (seed value : Word w) :
    combine w seed value = mixg seed value := by
  rw [combine, dif_neg h32, dif_neg h64]

/-- `COMBINE` follows its width: equal widths give equal results on the same words. -/
theorem combine_cast {w w' : Nat} (h : w = w') (seed value : Word w) :
    combine w' (seed.cast h) (value.cast h) = (combine w seed value).cast h := by
  subst h; rfl

/-- The same, on the integers the words stand for. -/
theorem combine_toNat_congr {w w' : Nat} (h : w = w') {seed value : Word w} {seed' value' : Word w'}
    (hs : seed.toNat = seed'.toNat) (hv : value.toNat = value'.toNat) :
    (combine w seed value).toNat = (combine w' seed' value').toNat := by
  subst h
  rw [BitVec.eq_of_toNat_eq hs, BitVec.eq_of_toNat_eq hv]

end Sys2Proof.Machine
end

