-- ==== Sys2Proof/Laws/Decode.lean ====
section
/-! SUPPORT. What the selector code, the table and the decoder answer, case by case. -/

namespace Sys2Proof

@[simp] theorem selectorCode_32 : selectorCode 32 = 0b01#2 := rfl
@[simp] theorem selectorCode_64 : selectorCode 64 = 0b10#2 := rfl

theorem selectorCode_generic {w : Nat} (h32 : w ≠ 32) (h64 : w ≠ 64) : selectorCode w = 0b00#2 := by
  rw [selectorCode, if_neg h32, if_neg h64]

theorem selectorCode_eq_generic_iff (w : Nat) : selectorCode w = 0b00#2 ↔ w ≠ 32 ∧ w ≠ 64 := by
  unfold selectorCode; split
  · simp_all
  · split <;> simp_all

/-- No two rows of the table accept the same code. -/
theorem opcodeTable_pairwise_disjoint :
    opcodeTable.Pairwise (fun r r' => ∀ alg, ¬ (r.accepts alg = true ∧ r'.accepts alg = true)) := by
  decide

@[simp] theorem selectRow_mixg : selectRow 0#2 = some .mixg := rfl
@[simp] theorem selectRow_mix32 : selectRow 1#2 = some .mix32 := rfl
@[simp] theorem selectRow_mix64 : selectRow 2#2 = some .mix64 := rfl
@[simp] theorem selectRow_reserved : selectRow 3#2 = none := rfl

theorem decode_mix32 (seed value : Word 32) :
    decode { width := 32, alg := 0b01#2, seed, value } = .ok (.mix32 seed value) := by
  simp [decode]

theorem decode_mix64 (seed value : Word 64) :
    decode { width := 64, alg := 0b10#2, seed, value } = .ok (.mix64 seed value) := by
  simp [decode]

theorem decode_mixg {w : Nat} (h0 : w ≠ 0) (h32 : w ≠ 32) (h64 : w ≠ 64) (seed value : Word w) :
    decode { width := w, alg := 0b00#2, seed, value } = .ok (.mixg w seed value) := by
  simp [decode, h0, h32, h64]

/-- The decoder's answer on a request whose code is the one R38 computes. -/
theorem decode_selected {w : Nat} (h0 : w ≠ 0) (seed value : Word w) :
    decode { width := w, alg := selectorCode w, seed, value } =
      if h : w = 32 then .ok (.mix32 (seed.cast h) (value.cast h))
      else if h : w = 64 then .ok (.mix64 (seed.cast h) (value.cast h))
      else .ok (.mixg w seed value) := by
  by_cases h32 : w = 32
  · subst h32; simp [decode]
  · by_cases h64 : w = 64
    · subst h64; simp [decode]
    · rw [dif_neg h32, dif_neg h64, selectorCode_generic h32 h64, decode_mixg h0 h32 h64]

/-- Every selector code is one of the four. -/
theorem selector_cases (alg : BitVec 2) : alg = 0b00#2 ∨ alg = 0b01#2 ∨ alg = 0b10#2 ∨ alg = 0b11#2 := by
  revert alg; decide

/-- Whatever the decoder accepts has a legal width and the code R38 computes. -/
theorem decode_ok_legal {q : Request} {i : Instr} (h : decode q = .ok i) :
    1 ≤ q.width ∧ q.alg = selectorCode q.width := by
  obtain ⟨w, alg, seed, value⟩ := q
  by_cases h0 : w = 0
  · simp [decode, h0] at h
  refine ⟨Nat.one_le_iff_ne_zero.mpr h0, ?_⟩
  rcases selector_cases alg with rfl | rfl | rfl | rfl
  · by_cases hg : w = 32 ∨ w = 64
    · simp [decode, h0, hg] at h
    · exact (selectorCode_generic (fun e => hg (.inl e)) (fun e => hg (.inr e))).symm
  · by_cases hg : w = 32
    · subst hg; rfl
    · simp [decode, h0, hg] at h
  · by_cases hg : w = 64
    · subst hg; rfl
    · simp [decode, h0, hg] at h
  · simp [decode, h0] at h

end Sys2Proof
end

