-- ==== Sys2Proof/Laws/State.lean ====
section
/-! SUPPORT. One lemma per field per operation on the state. -/

namespace Sys2Proof.Machine

@[simp] theorem drive_inst (s : State) (a b : Word s.inst.width) : (s.drive a b).inst = s.inst := rfl
@[simp] theorem drive_seedI (s : State) (a b : Word s.inst.width) : (s.drive a b).seedI = a := rfl
@[simp] theorem drive_valueI (s : State) (a b : Word s.inst.width) : (s.drive a b).valueI = b := rfl

@[simp] theorem driveSeed_inst (s : State) (a : Word s.inst.width) : (s.driveSeed a).inst = s.inst := rfl
@[simp] theorem driveSeed_seedI (s : State) (a : Word s.inst.width) : (s.driveSeed a).seedI = a := rfl
@[simp] theorem driveSeed_valueI (s : State) (a : Word s.inst.width) :
    (s.driveSeed a).valueI = s.valueI := rfl

@[simp] theorem driveValue_inst (s : State) (b : Word s.inst.width) : (s.driveValue b).inst = s.inst := rfl
@[simp] theorem driveValue_seedI (s : State) (b : Word s.inst.width) :
    (s.driveValue b).seedI = s.seedI := rfl
@[simp] theorem driveValue_valueI (s : State) (b : Word s.inst.width) : (s.driveValue b).valueI = b := rfl

@[simp] theorem powerUp_inst (w : Nat) (a b : Word w) : (State.powerUp w a b).inst = Instance.build w := rfl
@[simp] theorem powerUp_seedI (w : Nat) (a b : Word w) : (State.powerUp w a b).seedI = a := rfl
@[simp] theorem powerUp_valueI (w : Nat) (a b : Word w) : (State.powerUp w a b).valueI = b := rfl

@[simp] theorem placeRequest_width (s : State) (q : Request) : (placeRequest s q).inst.width = q.width := rfl
@[simp] theorem placeRequest_alg (s : State) (q : Request) : (placeRequest s q).inst.alg = q.alg := rfl
@[simp] theorem placeRequest_seedDriver (s : State) (q : Request) :
    (placeRequest s q).inst.seedDriver = .caller := rfl
@[simp] theorem placeRequest_request (s : State) (q : Request) : (placeRequest s q).request = q := rfl

@[simp] theorem request_width (s : State) : s.request.width = s.inst.width := rfl
@[simp] theorem request_alg (s : State) : s.request.alg = s.inst.alg := rfl
@[simp] theorem request_seed (s : State) : s.request.seed = s.seedI := rfl
@[simp] theorem request_value (s : State) : s.request.value = s.valueI := rfl

/- The same facts about the integers on the ports. They rewrite under `toNat`, where the width of the word is
that of the new state. -/

@[simp] theorem drive_seedI_toNat (s : State) (a b : Word s.inst.width) :
    (s.drive a b).seedI.toNat = a.toNat := rfl
@[simp] theorem drive_valueI_toNat (s : State) (a b : Word s.inst.width) :
    (s.drive a b).valueI.toNat = b.toNat := rfl

/-- The words on the inputs, driven again, leave the state as it is. -/
@[simp] theorem drive_self (s : State) : s.drive s.seedI s.valueI = s := rfl

/-- A caller of the instance's own width finds the word on the port. -/
@[simp] theorem result_self (s : State) : s.result s.inst.width = s.newSeedO := by
  rw [State.result, dif_pos rfl]
  cases s.newSeedO <;> rfl

/-- Two states are equal when their instances are and their inputs carry the same integers. -/
theorem state_ext_toNat {s t : State} (hi : s.inst = t.inst) (ha : s.seedI.toNat = t.seedI.toNat)
    (hb : s.valueI.toNat = t.valueI.toNat) : s = t := by
  obtain ⟨inst, a, b⟩ := s
  obtain ⟨inst', a', b'⟩ := t
  obtain rfl : inst = inst' := hi
  obtain rfl : a = a' := BitVec.eq_of_toNat_eq ha
  obtain rfl : b = b' := BitVec.eq_of_toNat_eq hb
  rfl

end Sys2Proof.Machine
end

