-- ==== Sys2Proof/Laws/Ops.lean ====
section
/-! SUPPORT. What the output, the shared evaluation, a meaning, a step and a call can do, said once. -/

namespace Sys2Proof.Machine

/-- The instances with a meaning are the legal ones. -/
theorem refusal_eq_none_iff (s : State) : Instance.refusal s.inst = none ↔ s.Legal := by
  obtain ⟨⟨w, alg, driver⟩, seed, value⟩ := s
  have hr : selectorCode w ≠ 0b11#2 := by unfold selectorCode; split_ifs <;> decide
  simp only [Instance.refusal, State.Legal]
  by_cases h0 : w = 0
  · simp [h0]
  by_cases ha : alg = 0b11#2
  · simp [h0, ha, hr.symm]
  by_cases hc : alg = selectorCode w
  · cases driver <;> simp [h0, hc, hr, Nat.one_le_iff_ne_zero]
  · simp [h0, ha, hc]

/-- On a legal instance the output is `COMBINE` of the inputs. -/
theorem newSeedO_legal {s : State} (h : s.Legal) :
    s.newSeedO = .ok (combine s.inst.width s.seedI s.valueI) := by
  rw [State.newSeedO, (refusal_eq_none_iff s).mpr h]

/-- The same, as an integer. -/
theorem outputNat_legal {s : State} (h : s.Legal) :
    s.outputNat = .ok (combine s.inst.width s.seedI s.valueI).toNat := by
  rw [State.outputNat, newSeedO_legal h]; rfl

/-- Where the instance has no meaning, neither has its output, for the same reason. -/
theorem newSeedO_refused {s : State} {r : Refusal} (h : Instance.refusal s.inst = some r) :
    s.newSeedO = .error r := by
  rw [State.newSeedO, h]

/-- Whether an instance is legal is a fact about the instance alone. -/
theorem legal_of_inst_eq {s t : State} (h : t.inst = s.inst) (hs : s.Legal) : t.Legal := by
  unfold State.Legal; rw [h]; exact hs

/-- If an evaluation answers a next state, then the instance selected the algorithm and its seed is the
caller's, and the next state has the operands on the inputs. -/
theorem evaluate_next {w : Nat} {code : BitVec 2} {seed value : Word w} {s t : State}
    (h : evaluate w code seed value s = .next t) :
    w ≠ 0 ∧ s.inst.seedDriver = .caller ∧ s.inst.alg = code ∧ selectorCode w = code ∧
      ∃ hw : s.inst.width = w, t = s.drive (seed.cast hw.symm) (value.cast hw.symm) := by
  unfold evaluate at h
  by_cases h0 : w = 0
  · simp [h0] at h
  by_cases hd : s.inst.seedDriver = .newSeedO
  · simp [h0, hd] at h
  by_cases hw : s.inst.width = w
  · by_cases ha : s.inst.alg = code ∧ selectorCode w = code
    · have hc : s.inst.seedDriver = .caller := by
        cases hs : s.inst.seedDriver
        · rfl
        · exact absurd hs hd
      rw [if_neg h0, if_neg hd, dif_pos hw, if_pos ha] at h
      exact ⟨h0, hc, ha.1, ha.2, hw, by injection h with h; exact h.symm⟩
    · simp [h0, hd, hw, ha] at h
  · simp [h0, hd, hw] at h

/-- An evaluation completes on an instance that selected the algorithm and whose seed is the caller's. -/
theorem evaluate_completes {w : Nat} {code : BitVec 2} (seed value : Word w) {s : State} (h0 : w ≠ 0)
    (hd : s.inst.seedDriver = .caller) (hw : s.inst.width = w) (ha : s.inst.alg = code)
    (hc : selectorCode w = code) :
    evaluate w code seed value s = .next (s.drive (seed.cast hw.symm) (value.cast hw.symm)) := by
  have hd' : s.inst.seedDriver ≠ .newSeedO := by rw [hd]; decide
  rw [evaluate, if_neg h0, if_neg hd', dif_pos hw, if_pos ⟨ha, hc⟩]

/-- A step runs the operation that the request on the ports decodes to. -/
theorem step_of_decode_ok {s : State} {i : Instr} (h : decode s.request = .ok i) : step s = exec i s := by
  rw [step, h]

/-- A step refuses, by the decoder's name, a request that does not decode. -/
theorem step_of_decode_error {s : State} {e : DecodeError} (h : decode s.request = .error e) :
    step s = .refused (refusalOf e) := by
  rw [step, h]

/-- Where the width is legal and the code is the one of the width, the request on the ports decodes to a well-formed
operation of that width, with the words on the inputs as operands. -/
theorem decode_request_selected {s : State} (h1 : 1 ≤ s.inst.width)
    (ha : s.inst.alg = selectorCode s.inst.width) :
    ∃ i, decode s.request = .ok i ∧ i.wellFormed = true ∧ s.inst.width = i.width ∧
      s.seedI.toNat = i.seed.toNat ∧ s.valueI.toNat = i.value.toNat := by
  have h0 := Nat.one_le_iff_ne_zero.mp h1
  have hdec : decode s.request = _ := ha ▸ decode_selected h0 s.seedI s.valueI
  by_cases h32 : s.inst.width = 32
  · rw [dif_pos h32] at hdec
    exact ⟨_, hdec, rfl, h32, (BitVec.toNat_cast h32 _).symm, (BitVec.toNat_cast h32 _).symm⟩
  rw [dif_neg h32] at hdec
  by_cases h64 : s.inst.width = 64
  · rw [dif_pos h64] at hdec
    exact ⟨_, hdec, rfl, h64, (BitVec.toNat_cast h64 _).symm, (BitVec.toNat_cast h64 _).symm⟩
  rw [dif_neg h64] at hdec
  exact ⟨_, hdec, by simp [Instr.wellFormed, h0, h32, h64], rfl, rfl, rfl⟩

/-- If an operation answers a next state, the instance is legal and of the operation's width, the operation is
well-formed, the next state has its operands on the inputs, and the output is `COMBINE` of them. -/
theorem exec_next {i : Instr} {s t : State} (h : exec i s = .next t) :
    s.Legal ∧ i.wellFormed = true ∧ (∃ hw : s.inst.width = i.width,
      t = s.drive (i.seed.cast hw.symm) (i.value.cast hw.symm)) ∧
      t.outputNat = .ok (combine i.width i.seed i.value).toNat := by
  have key : s.Legal ∧ i.wellFormed = true ∧ ∃ hw : s.inst.width = i.width,
      t = s.drive (i.seed.cast hw.symm) (i.value.cast hw.symm) := by
    cases i with
    | mixg w seed value =>
      obtain ⟨h0, hd, ha, hc, hw, ht⟩ := evaluate_next h
      have hg := (selectorCode_eq_generic_iff w).mp hc
      refine ⟨⟨?_, by rw [ha, hw, hc], hd⟩, by simp [Instr.wellFormed, h0, hg], hw, ht⟩
      rw [hw]; exact Nat.one_le_iff_ne_zero.mpr h0
    | mix32 seed value =>
      obtain ⟨-, hd, ha, -, hw, ht⟩ := evaluate_next (w := 32) (code := 0b01#2) h
      exact ⟨⟨by rw [hw]; decide, by rw [ha, hw]; rfl, hd⟩, rfl, hw, ht⟩
    | mix64 seed value =>
      obtain ⟨-, hd, ha, -, hw, ht⟩ := evaluate_next (w := 64) (code := 0b10#2) h
      exact ⟨⟨by rw [hw]; decide, by rw [ha, hw]; rfl, hd⟩, rfl, hw, ht⟩
  obtain ⟨hl, hi, hw, rfl⟩ := key
  refine ⟨hl, hi, ⟨hw, rfl⟩, ?_⟩
  exact (outputNat_legal (s := s.drive (i.seed.cast hw.symm) (i.value.cast hw.symm)) hl).trans
    (congrArg _ (combine_toNat_congr hw (BitVec.toNat_cast hw.symm _) (BitVec.toNat_cast hw.symm _)))

/-- A well-formed operation completes on every legal instance of its width. -/
theorem exec_legal {i : Instr} {s : State} (h : s.Legal) (hi : i.wellFormed = true)
    (hw : s.inst.width = i.width) :
    exec i s = .next (s.drive (i.seed.cast hw.symm) (i.value.cast hw.symm)) := by
  obtain ⟨-, ha, hd⟩ := h
  cases i with
  | mixg w seed value =>
    simp only [Instr.wellFormed, Bool.and_eq_true, bne_iff_ne] at hi
    have hw' : s.inst.width = w := hw
    have hc := selectorCode_generic hi.1.2 hi.2
    exact evaluate_completes seed value hi.1.1 hd hw' (by rw [ha, hw', hc]) hc
  | mix32 seed value =>
    have hw' : s.inst.width = 32 := hw
    exact evaluate_completes (code := 0b01#2) seed value (by decide) hd hw' (by rw [ha, hw']; rfl) rfl
  | mix64 seed value =>
    have hw' : s.inst.width = 64 := hw
    exact evaluate_completes (code := 0b10#2) seed value (by decide) hd hw' (by rw [ha, hw']; rfl) rfl

/-- A step of a legal instance leaves the state as it is. -/
theorem step_legal {s : State} (h : s.Legal) : step s = .next s := by
  obtain ⟨i, hdec, hi, hw, hs, hv⟩ := decode_request_selected h.1 h.2.1
  rw [step_of_decode_ok hdec, exec_legal h hi hw]
  refine congrArg _ (state_ext_toNat rfl ?_ ?_)
  · rw [drive_seedI_toNat, BitVec.toNat_cast, hs]
  · rw [drive_valueI_toNat, BitVec.toNat_cast, hv]

/-- If a step answers a next state, the instance is legal, and the next state is the same state. -/
theorem step_next {s t : State} (h : step s = .next t) : s.Legal ∧ t = s := by
  cases hd : decode s.request with
  | error e => rw [step_of_decode_error hd] at h; cases h
  | ok i =>
    have hl := (exec_next ((step_of_decode_ok hd).symm.trans h)).1
    rw [step_legal hl] at h
    injection h with h
    exact ⟨hl, h.symm⟩

/-- One call of a legal instance: the instance stays, and the caller takes `COMBINE` of its words. -/
theorem call_legal {w : Nat} (seed value : Word w) {s : State} (h : s.Legal) (hw : s.inst.width = w) :
    ∃ t, call w seed value s = .ok (combine w seed value, t) ∧ t.inst = s.inst := by
  subst hw
  have hi : invoke s.inst.width seed value s = .next (s.drive seed value) :=
    (dif_pos rfl).trans (step_legal (s := s.drive seed value) h)
  refine ⟨s.drive seed value, ?_, rfl⟩
  rw [call, hi]
  exact congrArg (Except.map (·, s.drive seed value))
    ((result_self (s.drive seed value)).trans (newSeedO_legal (s := s.drive seed value) h))

end Sys2Proof.Machine
end

