-- ==== Sys2Proof/Laws/PerInstr.lean ====
section
/-! SUPPORT. The per-instruction family `CarriesSelector`: the request that presents a well-formed operation has
the operation's own width and words, and the code R38 computes from that width. -/

namespace Sys2Proof.Laws.CarriesSelector

def Statement (i : Instr) : Prop :=
  i.wellFormed = true →
    (encode i).width = i.width ∧ (encode i).alg = selectorCode i.width ∧
      (encode i).seed.toNat = i.seed.toNat ∧ (encode i).value.toNat = i.value.toNat

theorem mixg (w : Nat) (seed value : Word w) : Statement (.mixg w seed value) := by
  intro h
  simp only [Instr.wellFormed, Bool.and_eq_true, bne_iff_ne] at h
  exact ⟨rfl, (selectorCode_generic h.1.2 h.2).symm, rfl, rfl⟩

theorem mix32 (seed value : Word 32) : Statement (.mix32 seed value) :=
  fun _ => ⟨rfl, rfl, rfl, rfl⟩

theorem mix64 (seed value : Word 64) : Statement (.mix64 seed value) :=
  fun _ => ⟨rfl, rfl, rfl, rfl⟩

end Sys2Proof.Laws.CarriesSelector
end

