-- ==== Sys2Proof/Machine/Text.lean ====
section
/-! DEFINITION. The written form of an operation (R46 of 30_encoding.md): the mnemonic, the seed, the value and the
result, each word in hexadecimal padded to its width. No meaning depends on it. -/

namespace Sys2Proof.Machine

/-- The last `k` digits of a number in base `b`, the most significant first. -/
def digits (b : Nat) : (k n : Nat) → List Char
  | 0, _ => []
  | k + 1, n => digits b k (n / b) ++ [Nat.digitChar (n % b)]

/-- A word as the spec writes it: as many hexadecimal digits as its width needs. -/
def wordText {w : Nat} (x : Word w) : List Char := "0x".toList ++ digits 16 ((w + 3) / 4) x.toNat

/-- A width in decimal, without leading zeros. -/
def widthText (w : Nat) : List Char := (digits 10 w w).dropWhile (· == '0')

/-- The name of an operation: `MIXG.W<w>`, `MIX32` or `MIX64`. -/
def mnemonicText : Instr → List Char
  | .mixg w _ _ => "MIXG.W".toList ++ widthText w
  | .mix32 _ _ => "MIX32".toList
  | .mix64 _ _ => "MIX64".toList

/-- The name of the one operation that all three implement, `COMBINE.W<w>`. -/
def combineText (w : Nat) : List Char := "COMBINE.W".toList ++ widthText w

/-- An operation on one line under a name: the seed, the value and the result (R46). -/
def operationText (name : List Char) (i : Instr) : List Char :=
  name ++ " ".toList ++ wordText i.seed ++ ", ".toList ++ wordText i.value ++ " -> ".toList ++
    wordText (combine i.width i.seed i.value)

end Sys2Proof.Machine
end

