-- ==== Sys2Proof/Tests/Slice0.lean ====
section
/-! SUPPORT. The model's own tests: the checks of WellFormed, decoding of written requests, one step per
instruction against 95_test_vectors.md, and a witness for the hypotheses of every statement. -/

namespace Sys2Proof.Tests

open Sys2Proof Sys2Proof.Machine

/-! WellFormed: an ill-formed term for each check. -/

theorem test_mixg_width_0_ill_formed : (Instr.mixg 0 0 0).wellFormed = false := by decide
theorem test_mixg_width_32_ill_formed : (Instr.mixg 32 0 0).wellFormed = false := by decide
theorem test_mixg_width_64_ill_formed : (Instr.mixg 64 0 0).wellFormed = false := by decide
theorem test_mixg_width_33_well_formed : (Instr.mixg 33 0 0).wellFormed = true := by decide

/-! Decoding: the table of section 3 of 30_encoding.md, its reserved code and its illegal width (R44). -/

theorem test_decode_mix32 :
    (decode ⟨32, 0b01#2, 0x12345678#32, 0x9abcdef0#32⟩).toOption
      = some (.mix32 0x12345678#32 0x9abcdef0#32) := by decide
theorem test_decode_mix64 :
    (decode ⟨64, 0b10#2, 0x1#64, 0x8000000000000000#64⟩).toOption
      = some (.mix64 0x1#64 0x8000000000000000#64) := by decide
theorem test_decode_mixg :
    (decode ⟨5, 0b00#2, 0x15#5, 0x0a#5⟩).toOption = some (.mixg 5 0x15#5 0x0a#5) := by decide
theorem test_decode_reserved : decode ⟨16, 0b11#2, 0, 0⟩ = .error .reservedSelector := rfl
theorem test_decode_width_0 : decode ⟨0, 0b00#2, 0, 0⟩ = .error .illegalWidth := rfl
theorem test_decode_mismatch : decode ⟨64, 0b01#2, 0, 0⟩ = .error .selectorMismatch := rfl

theorem test_table_words :
    decodeTableWord 8 0 = some (.mixg 16 0 0) ∧ decodeTableWord 8 1 = some (.mix32 0 0) ∧
      decodeTableWord 8 2 = some (.mix64 0 0) ∧ decodeTableWord 8 3 = none := by decide

/-! Running: the state a step answers, if it answers one. -/

/-- The next state, where there is one. -/
def answer : Host.Outcome State Fault Refusal → Option State
  | .next s => some s
  | .fault _ => none
  | .refused _ => none

/-- The integer on the output port of the state a step answers. -/
def output (o : Host.Outcome State Fault Refusal) : Option Nat := (answer o).bind (·.outputNat.toOption)

theorem next_of_answer {o : Host.Outcome State Fault Refusal} {t : State} (h : answer o = some t) :
    o = .next t := by
  cases o with
  | next s => injection h with h; rw [h]
  | fault r => cases h
  | refused r => cases h

/-- An instance as built, with some words on its inputs. -/
def built (w : Nat) : State := State.powerUp w 1 2

/-- The same instance with its output wired to its seed input. -/
def looped (w : Nat) : State := { built w with inst := { Instance.build w with seedDriver := .newSeedO } }

/-- An instance with the reserved code. -/
def reserved : State :=
  { inst := { width := 16, alg := 0b11#2, seedDriver := .caller }, seedI := 0, valueI := 0 }

/- Scenario S7 and row 9 of section 2.2. -/
theorem test_mix32_scenario :
    output (exec (.mix32 0x12345678#32 0x9abcdef0#32) (built 32)) = some 0xe4f88c5a := by decide
theorem test_mix32_mixed_words :
    output (exec (.mix32 0xdeadbeef#32 0xcafebabe#32) (built 32)) = some 0xbaf54751 := by decide

/- Scenario S7 and row 10 of section 2.3, which tells the logical shift from the arithmetic one. -/
theorem test_mix64_scenario :
    output (exec (.mix64 0x12345678#64 0x9abcdef0#64) (built 64)) = some 0x9d2e6fa7757fc359 := by decide
theorem test_mix64_top_bit :
    output (exec (.mix64 0#64 0x8000000000000000#64) (built 64)) = some 0x0f4d286b770d6b64 := by decide

/- Section 2.4: a width at which the left shift loses every bit (detector W14), and a width above 64. -/
theorem test_mixg_width_5 :
    output (exec (.mixg 5 0x15#5 0x0a#5) (built 5)) = some 0x1d := by decide
theorem test_mixg_width_128 :
    output (exec (.mixg 128 0x0123456789abcdef0123456789abcdef#128 0xfedcba9876543210fedcba9876543210#128)
      (built 128)) = some 0x46d5a0b34a196ca206d5a0b2e841d6eb := by decide

/- The first step after reset, on each row's bare word (section 2.5, the pair (0, 0)). -/
theorem test_step_mixg_after_reset : output (step (State.reset.withFetchWord 8 0)) = some 0x79b9 := by decide
theorem test_step_mix32_after_reset : output (step (State.reset.withFetchWord 8 1)) = some 0xe6546b64 := by decide
theorem test_step_mix64_after_reset : output (step (State.reset.withFetchWord 8 2)) = some 0xe6546b64 := by decide
theorem test_step_reserved_after_reset : output (step (State.reset.withFetchWord 8 3)) = none := by decide

/- The output follows the inputs at every instant, with no step in between (R19, R95): row 11 of section
2.4 at width 16, and the output of `State.reset` (R60). -/
theorem test_output_follows_inputs :
    (((State.powerUp 16 0x1234#16 0x5678#16).result 16).toOption = some 0x738a#16 ∧
      (((State.powerUp 16 0x1234#16 0#16).driveValue 0x5678#16).result 16).toOption = some 0x738a#16) ∧
    State.reset.outputNat.toOption = some 0xe6546b64 := by decide
theorem test_looped_has_no_output : (looped 32).outputNat.toOption = none := by decide

/- The written form (R46), on lines of 95_test_vectors.md. -/
theorem test_text_mixg :
    operationText (mnemonicText (.mixg 33 0 0)) (.mixg 33 0x112345678#33 0x19abcdef0#33)
      = "MIXG.W33 0x112345678, 0x19abcdef0 -> 0x018a35a3f".toList := by decide
theorem test_text_combine :
    operationText (combineText 32) (.mix32 0 0)
      = "COMBINE.W32 0x00000000, 0x00000000 -> 0xe6546b64".toList := by decide

/-! Witnesses: concrete states and operands that meet the hypotheses of the statements. -/

theorem witness_StepKeepsInvariant :
    State.reset.Inv ∧ step State.reset = .next State.reset :=
  ⟨by decide, next_of_answer (by decide)⟩

theorem witness_DecodeOfEncodeIsTheOperation :
    (Instr.mixg 1 1 0).wellFormed = true ∧ (Instr.mix32 0xffffffff#32 0).wellFormed = true ∧
      (Instr.mix64 0 0xffffffffffffffff#64).wellFormed = true := by decide

theorem witness_AcceptedRequestIsTheEncoding :
    decode ⟨65, 0b00#2, 0, 1⟩ = .ok (.mixg 65 0 1) ∧ decode ⟨32, 0b01#2, 2, 3⟩ = .ok (.mix32 2 3) ∧
      decode ⟨64, 0b10#2, 4, 5⟩ = .ok (.mix64 4 5) :=
  ⟨rfl, rfl, rfl⟩

theorem witness_SelectionIsByWidthAlone : 1 ≤ 1 ∧ 1 ≤ 31 ∧ 1 ≤ 32 ∧ 1 ≤ 33 ∧ 1 ≤ 64 := by decide

theorem witness_StepRunsTheDecodedOperation :
    (decode (built 32).request).toOption = some (.mix32 1 2) ∧
      (decode (built 64).request).toOption = some (.mix64 1 2) ∧
      (decode (built 33).request).toOption = some (.mixg 33 1 2) := by decide

theorem witness_StepRunsTheDecodedOperation_refusing :
    decode reserved.request = .error .reservedSelector ∧ decode (built 0).request = .error .illegalWidth :=
  ⟨rfl, rfl⟩

theorem witness_PlacedTableWordRunsNext :
    decodeTableWord 8 0 = some (.mixg 16 0 0) ∧ decodeTableWord 2 1 = some (.mix32 0 0) ∧
      decodeTableWord 8 2 = some (.mix64 0 0) := by decide

theorem witness_ReservedValuesRefused :
    (built 0).inst.width = 0 ∧ (1 ≤ reserved.inst.width ∧ reserved.inst.alg = 0b11#2) ∧ (built 1).Legal ∧
      (decode ⟨1, 0b00#2, 0, 0⟩).toOption = some (.mixg 1 0 0) := by decide

theorem witness_FeedbackWiringRefused :
    (looped 32).inst.seedDriver = .newSeedO ∧ 1 ≤ (looped 32).inst.width ∧
      (looped 32).inst.alg = selectorCode (looped 32).inst.width := by decide

theorem witness_OperationCompletesExactlyWhereSelected :
    (built 32).Legal ∧ (Instr.mix32 0 0).width = (built 32).inst.width ∧
      (Instr.mixg 32 0 0).width ≠ 0 ∧
      ¬ ((Instr.mixg 32 0 0).wellFormed = true ∧ (Instr.mixg 32 0 0).width = (built 32).inst.width) ∧
      ¬ ((Instr.mix64 0 0).wellFormed = true ∧ (Instr.mix64 0 0).width = (built 32).inst.width) := by decide

theorem witness_Mix32ResultFollowsItsSteps : (built 32).Legal ∧ (built 32).inst.width = 32 := by decide

theorem witness_Mix64ResultFollowsItsSteps : (built 64).Legal ∧ (built 64).inst.width = 64 := by decide

theorem witness_MixgResultFollowsItsSteps :
    (33 ≠ 32 ∧ 33 ≠ 64 ∧ (built 33).Legal ∧ (built 33).inst.width = 33) ∧
      (1 ≠ 32 ∧ 1 ≠ 64 ∧ (built 1).Legal ∧ (built 1).inst.width = 1) := by decide

theorem witness_StepComputesCombineByWidth :
    ((built 32).Legal ∧ (built 32).inst.width = 32) ∧ ((built 64).Legal ∧ (built 64).inst.width = 64) ∧
      ((built 63).Legal ∧ (built 63).inst.width ≠ 32 ∧ (built 63).inst.width ≠ 64) := by decide

/-- The operation `i` on an instance of its width completes. -/
def completes (i : Instr) : Prop := ∃ t, exec i (built i.width) = .next t

theorem completes_of_answer {i : Instr} (h : (answer (exec i (built i.width))).isSome = true) : completes i := by
  obtain ⟨t, ht⟩ := Option.isSome_iff_exists.mp h
  exact ⟨t, next_of_answer ht⟩

/- Also the witness for OperationOutputIsCombineOfItsOperands. -/
theorem witness_OperationWritesOnlyThePorts :
    completes (.mixg 8 0xff#8 0xff#8) ∧ completes (.mix32 0 0) ∧ completes (.mix64 0 0) :=
  ⟨completes_of_answer (by decide), completes_of_answer (by decide), completes_of_answer (by decide)⟩

theorem witness_RunKeepsTheInstance : Sys2Proof.core.run 1 State.reset = .next State.reset :=
  next_of_answer (by decide)

/- Also the witness for ChangedInputIsCombinedAsPresent, EveryResultHasExactlyOneCause and the output clause of
PortWiresCarryWeights. -/
theorem witness_LegalInstanceNeverStops : (built 1).Legal ∧ (built 32).Legal ∧ (built 64).Legal := by decide

/- Also the witness for CallersByTurnsGetTheirOwnResults and FoldChainsOperations. -/
theorem witness_ResultDependsOnlyOnWidthAndOperands :
    (built 8).Legal ∧ (State.powerUp 8 0x12#8 0x34#8).Legal ∧ (built 8).inst.width = 8 ∧
      (State.powerUp 8 0x12#8 0x34#8).inst.width = 8 := by decide

theorem witness_RepeatedStepChangesNothing :
    step (built 16) = .next (built 16) := next_of_answer (by decide)

theorem witness_FoldOrderMatters :
    ((built 32).Legal ∧ (built 32).inst.width = 32) ∧ ((built 64).Legal ∧ (built 64).inst.width = 64) ∧
      ((built 16).Legal ∧ (built 16).inst.width = 16) := by decide

theorem witness_PowerUpNeedsNoInitialisation : 1 ≤ 1 ∧ 1 ≤ 128 := by decide

theorem witness_PortWiresCarryWeights : 1 ≤ (built 1).inst.width ∧ 1 ≤ (built 65).inst.width := by decide

theorem witness_LiteralsEnterAsIntegers :
    (litN < 2 ^ 32 ∧ 32 ≤ 64 ∧ 32 ≤ 63) ∧ (litG < 2 ^ 32 ∧ 32 ≤ 33 ∧ 32 ≤ 32) ∧ 32 < 33 := by decide

theorem witness_MultiplicationKeepsTheLowHalf : 1 ≤ 1 ∧ (0x1#1).toNat % 2 = 1 ∧ (0xcc9e2d51#32).toNat % 2 = 1 := by
  decide

theorem witness_ExclusiveOrComparesBits : 0 < 1 ∧ 31 < 32 := by decide

/- Also the witness for the rotate clause of ArithmeticIdentities. -/
theorem witness_InclusiveOrJoinsDisjointBitsInTheRotate :
    (0 < 1 ∧ 31 < 32) ∧ (1 ≤ 1 ∧ 1 ≤ 31) ∧ (1 ≤ 31 ∧ 31 ≤ 31) := by decide

theorem witness_ShiftsAreTotalAndLogical : 5 ≤ 6 ∧ 0 < 6 ∧ 2 ≤ 0 + 2 ∧ 16 < 17 := by decide

theorem witness_RotateMovesEveryBit : 0 ≤ 32 ∧ 15 ≤ 32 ∧ 32 ≤ 32 ∧ 0 < 32 ∧ 31 < 32 := by decide

theorem witness_Mix32BijectiveInEachOperand :
    mix32 1 2 = mix32 1 2 ∧ mix32 0x87602912#32 0 = mix32 0x87602912#32 0 := by decide

theorem witness_MixgAtSmallAndLargeWidths : 31 < 32 ∧ 1 ≤ 1 ∧ 32 < 33 ∧ 6 ≤ 6 ∧ 2 ≤ 2 := by decide

theorem witness_MixgBijectiveInTheValueOnly : 1 ≤ 1 ∧ 1 ≤ 65 := by decide

theorem witness_CombineOfZerosIsNotZero : 1 ≤ 1 ∧ (1 ≤ 33 ∧ 33 ≠ 32 ∧ 33 ≠ 64) ∧ (1 ≤ 32 ∧ 1 ≤ 64) := by decide

theorem witness_StepRefusesWhatHasNoOutput :
    step (looped 64) = .refused .combinationalFeedback ∧ step reserved = .refused .reservedSelector ∧
      step (built 0) = .refused .illegalWidth := ⟨rfl, rfl, rfl⟩

theorem witness_FlippedValueBitChangesTheResult :
    ((built 32).Legal ∧ 31 < (built 32).inst.width) ∧ ((built 1).Legal ∧ 0 < (built 1).inst.width) := by decide

end Sys2Proof.Tests
end

section
/-! Proofs of the statements of 10_state.md. -/

namespace Sys2Proof.Machine

/-- Settles O20: on each of the two instances the call completes with `COMBINE` of the two words, which names
neither instance nor the words on its ports before the call. -/
theorem resultDependsOnlyOnWidthAndOperands : Obligations.ResultDependsOnlyOnWidthAndOperands := by
  intro w seed value s s' hs hs' hw hw'
  obtain ⟨t, ht, -⟩ := call_legal seed value hs hw
  obtain ⟨t', ht', -⟩ := call_legal seed value hs' hw'
  exact ⟨combine w seed value, t, t', ht, ht'⟩

end Sys2Proof.Machine
end


section
/-! Proofs of the statements of 40_arithmetic_primitives.md. -/

namespace Sys2Proof.Machine

@[simp] theorem xorW_getLsbD {w : Nat} (a b : Word w) (i : Nat) :
    (xorW a b).getLsbD i = (a.getLsbD i ^^ b.getLsbD i) :=
  BitVec.getLsbD_xor

theorem lit_two_pow_sub_one (w : Nat) : lit w (2 ^ w - 1) = BitVec.allOnes w :=
  (BitVec.ofNatLT_eq_ofNat (Nat.sub_one_lt (Nat.two_pow_pos w).ne')).symm

theorem xorW_zero {w : Nat} (a : Word w) : xorW a 0 = a := BitVec.xor_zero

theorem xorW_self {w : Nat} (a : Word w) : xorW a a = 0 := BitVec.xor_self

theorem xorW_ones {w : Nat} (a : Word w) : xorW a (lit w (2 ^ w - 1)) = ~~~a := by
  rw [lit_two_pow_sub_one]
  exact BitVec.xor_allOnes

/-- Settles O31: a bit of `xorW` is the Boolean exclusive or of the two bits, which is true exactly when they
differ; the corner cases are the primitive's own lemmas, and the example evaluates. -/
theorem exclusiveOrComparesBits : Obligations.ExclusiveOrComparesBits := by
  refine ⟨?bits, ?corners, ?printed⟩
  case bits =>
    intro w a b i _
    rw [xorW_getLsbD, Bool.xor_iff_ne]
  case corners => exact fun w a => ⟨xorW_zero a, xorW_self a, xorW_ones a⟩
  case printed => decide

end Sys2Proof.Machine
end


section
/-! Proofs of the statements of 41_murmur3_32bit_mixer.md. -/

namespace Sys2Proof.Machine

/-- A well-formed operation on a legal instance of its width completes, keeps the instance, and puts `COMBINE` of its
operands on the output. -/
theorem exec_legal_outputNat {i : Instr} {s : State} (h : s.Legal) (hi : i.wellFormed = true)
    (hw : s.inst.width = i.width) :
    ∃ t, exec i s = .next t ∧ t.inst = s.inst ∧ t.outputNat = .ok (combine i.width i.seed i.value).toNat := by
  have hexec := exec_legal h hi hw
  obtain ⟨-, -, -, hout⟩ := exec_next hexec
  exact ⟨_, hexec, drive_inst s _ _, hout⟩

/-- A literal enters a product as the integer it spells: its own reduction is absorbed (R42, R49). -/
theorem mulW_lit_toNat {w : Nat} (a : Word w) (n : Nat) : (mulW a (lit w n)).toNat = (a.toNat * n) % 2 ^ w := by
  rw [mulW_toNat, lit_toNat, Nat.mul_mod_mod]

/-- A literal enters a sum as the integer it spells: its own reduction is absorbed (R42, R48). -/
theorem addW_lit_toNat {w : Nat} (a : Word w) (n : Nat) : (addW a (lit w n)).toNat = (a.toNat + n) % 2 ^ w := by
  rw [addW_toNat, lit_toNat, Nat.add_mod_mod]

/-- Step 6 of R58: the reduction of the product is absorbed by the reduction of the sum. -/
theorem mix32_lastStep_toNat (h2 : Word 32) :
    (addW (mulW h2 (lit 32 litFive)) (lit 32 litN)).toNat = (litFive * h2.toNat + litN) % 2 ^ 32 := by
  rw [addW_lit_toNat, mulW_lit_toNat, Nat.mod_add_mod, Nat.mul_comm]

/-- The steps of R58 over the integers, with the literals of R41 in decimal. -/
theorem mix32_toNat (seed value : Word 32) :
    (mix32 seed value).toNat =
      let k1 := (value.toNat * 3432918353) % 2 ^ 32
      let k2 := (k1 * 2 ^ 15) % 2 ^ 32 ||| k1 / 2 ^ 17
      let k3 := (k2 * 461845907) % 2 ^ 32
      let h1 := seed.toNat ^^^ k3
      let h2 := (h1 * 2 ^ 13) % 2 ^ 32 ||| h1 / 2 ^ 19
      (5 * h2 + 3864292196) % 2 ^ 32 := by
  rw [mix32, mix32_lastStep_toNat, rotl32_toNat, xorW_toNat, mulW_lit_toNat, rotl32_toNat, mulW_lit_toNat,
    litC1, litR1, litC2, litR2, litFive, litN]

/-- Settles O12: `MIX32` completes with `COMBINE` of its operands on the output, which at width 32 is `mix32` of
them, and that is the rule's expression step by step. -/
theorem mix32ResultFollowsItsSteps : Obligations.Mix32ResultFollowsItsSteps := by
  intro s seed value hs hw
  obtain ⟨t, hexec, hinst, hout⟩ := exec_legal_outputNat (i := .mix32 seed value) hs rfl hw
  have hcombine : (combine 32 seed value).toNat = (mix32 seed value).toNat :=
    congrArg BitVec.toNat (combine_32 seed value)
  exact ⟨t, hexec, hinst, hout.trans (congrArg Except.ok (hcombine.trans (mix32_toNat seed value)))⟩

end Sys2Proof.Machine
end


section
/-! Proofs of the statements of 42_murmur2_64bit_mixer.md. -/

namespace Sys2Proof.Machine

/-- The steps of R63 over the integers, with the literals of R41 in decimal. -/
theorem mix64_toNat (seed value : Word 64) :
    (mix64 seed value).toNat =
      let m := 14313749767032793493
      let k1 := (value.toNat * m) % 2 ^ 64
      let k2 := k1 ^^^ k1 / 2 ^ 47
      let k3 := (k2 * m) % 2 ^ 64
      let h1 := seed.toNat ^^^ k3
      ((h1 * m) % 2 ^ 64 + 3864292196) % 2 ^ 64 := by
  rw [mix64, addW_lit_toNat, mulW_lit_toNat, xorW_toNat, mulW_lit_toNat, xorW_toNat, shrW_toNat, mulW_lit_toNat,
    litM, litR, litN]

/-- Settles O13: `MIX64` completes with `COMBINE` of its operands on the output, which at width 64 is `mix64` of
them, and that is the rule's expression step by step. -/
theorem mix64ResultFollowsItsSteps : Obligations.Mix64ResultFollowsItsSteps := by
  intro s seed value hs hw
  obtain ⟨t, hexec, hinst, hout⟩ := exec_legal_outputNat (i := .mix64 seed value) hs rfl hw
  have hcombine : (combine 64 seed value).toNat = (mix64 seed value).toNat :=
    congrArg BitVec.toNat (combine_64 seed value)
  exact ⟨t, hexec, hinst, hout.trans (congrArg Except.ok (hcombine.trans (mix64_toNat seed value)))⟩

end Sys2Proof.Machine
end


section
/-! Proofs of the statements of 43_hash_combine_dispatch.md. -/

namespace Sys2Proof.Machine

/-- The formula of R70 over the integers, with the literals of R41 in decimal: the reductions of the inner sums are
absorbed by the last one, and the seed of the final xor is unshifted. -/
theorem mixg_toNat {w : Nat} (seed value : Word w) :
    (mixg seed value).toNat =
      seed.toNat ^^^ (value.toNat + 2654435769 + (seed.toNat * 64) % 2 ^ w + seed.toNat / 4) % 2 ^ w := by
  rw [mixg, xorW_toNat, addW_toNat, addW_toNat, addW_lit_toNat, shlW_toNat, shrW_toNat, Nat.mod_add_mod,
    Nat.add_assoc, Nat.mod_add_mod, ← Nat.add_assoc, litG, litSl, litSr]
  simp only [Nat.reducePow]

/-- `MIXG` exists at every legal width other than 32 and 64 (R70). -/
theorem mixg_wellFormed {w : Nat} (h1 : 1 ≤ w) (h32 : w ≠ 32) (h64 : w ≠ 64) (seed value : Word w) :
    (Instr.mixg w seed value).wellFormed = true := by
  simp [Instr.wellFormed, Nat.one_le_iff_ne_zero.mp h1, h32, h64]

/-- Settles O14: `MIXG` completes with `COMBINE` of its operands on the output, which at any width other than 32 and
64 is `mixg` of them, and that is the rule's expression. -/
theorem mixgResultFollowsItsSteps : Obligations.MixgResultFollowsItsSteps := by
  intro w s seed value h32 h64 hs hw
  have hwf := mixg_wellFormed (hw ▸ hs.1) h32 h64 seed value
  obtain ⟨t, hexec, hinst, hout⟩ := exec_legal_outputNat hs hwf hw
  have hcombine : (combine w seed value).toNat = (mixg seed value).toNat :=
    congrArg BitVec.toNat (combine_generic h32 h64 seed value)
  exact ⟨t, hexec, hinst, hout.trans (congrArg Except.ok (hcombine.trans (mixg_toNat seed value)))⟩

/-- `COMBINE` at an equal width: to write the operands at that width changes neither them nor the result. -/
theorem combine_setWidth_toNat {w w' : Nat} (h : w = w') (seed value : Word w) :
    (combine w seed value).toNat = (combine w' (seed.setWidth w') (value.setWidth w')).toNat := by
  subst h
  rw [BitVec.setWidth_eq, BitVec.setWidth_eq]

/-- Settles O15: a step of a legal instance leaves the words on the inputs with `COMBINE` of them on the output, and
the three clauses are the three cases of `COMBINE`. -/
theorem stepComputesCombineByWidth : Obligations.StepComputesCombineByWidth := by
  intro s hs
  refine ⟨s, step_legal hs, ?width32, ?width64, ?generic⟩
  case width32 =>
    intro h32
    rw [outputNat_legal hs, combine_setWidth_toNat h32, combine_32]
  case width64 =>
    intro h64
    rw [outputNat_legal hs, combine_setWidth_toNat h64, combine_64]
  case generic =>
    intro h32 h64
    rw [outputNat_legal hs, combine_generic h32 h64]

/-- Where a step answers the very state it starts from, any number of steps answers that state. -/
theorem run_of_step_self {M : Host.Core} {s : M.State} (h : M.step s = .next s) (k : Nat) : M.run k s = .next s := by
  induction k with
  | zero => rfl
  | succ k ih => rw [Host.Core.run, h]; exact ih

/-- A legal instance evaluates for ever (R73). -/
theorem runsForEver_legal {s : State} (h : s.Legal) : s.RunsForEver :=
  fun k => ⟨s, run_of_step_self (M := Sys2Proof.core) (step_legal h) k⟩

/-- Settles O19: to drive words leaves a legal instance legal, and a legal instance evaluates in place, once or any
number of times. -/
theorem legalInstanceNeverStops : Obligations.LegalInstanceNeverStops := by
  intro s seed value hs
  have hdriven : (s.drive seed value).Legal := legal_of_inst_eq (drive_inst s seed value) hs
  exact ⟨⟨s.drive seed value, step_legal hdriven, outputNat_legal hdriven⟩, runsForEver_legal hdriven⟩

end Sys2Proof.Machine
end


section
/-! Proofs of the statements of 30_encoding.md: the decoder, the encoder and the selection. -/

namespace Sys2Proof

/-- The well-formed operations are those of a legal width whose row's code is the one R38 gives that width. -/
theorem wellFormed_iff (i : Instr) :
    i.wellFormed = true ↔ i.width ≠ 0 ∧ selectorCode i.width = (encode i).alg := by
  cases i with
  | mixg w seed value =>
    have hcode := selectorCode_eq_generic_iff w
    simp [Instr.wellFormed, Instr.width, encode, hcode, and_assoc]
  | mix32 seed value => simp [Instr.wellFormed, Instr.width, encode]
  | mix64 seed value => simp [Instr.wellFormed, Instr.width, encode]

/-- The algorithm of a well-formed operation is the one R37 selects for its width. -/
theorem algorithm_of_wellFormed {i : Instr} (h : i.wellFormed = true) :
    i.algorithm = if i.width = 32 then .mix32 else if i.width = 64 then .mix64 else .mixg := by
  cases i with
  | mixg w seed value =>
    simp only [Instr.wellFormed, Bool.and_eq_true, bne_iff_ne] at h
    obtain ⟨⟨-, h32⟩, h64⟩ := h
    simp [Instr.algorithm, Instr.width, h32, h64]
  | mix32 seed value => rfl
  | mix64 seed value => rfl

/-- The decoder inverts the encoder on well-formed operations. -/
theorem decode_encode {i : Instr} (h : i.wellFormed = true) : decode (encode i) = .ok i := by
  cases i with
  | mixg w seed value =>
    simp only [Instr.wellFormed, Bool.and_eq_true, bne_iff_ne] at h
    obtain ⟨⟨h0, h32⟩, h64⟩ := h
    exact decode_mixg h0 h32 h64 seed value
  | mix32 seed value => exact decode_mix32 seed value
  | mix64 seed value => exact decode_mix64 seed value

/-- The request whose code is the one of its width is the encoding of the operation the decoder reads from it. -/
theorem encode_of_decode_selected {w : Nat} (h0 : w ≠ 0) (seed value : Word w) {i : Instr}
    (h : decode { width := w, alg := selectorCode w, seed, value } = .ok i) :
    encode i = { width := w, alg := selectorCode w, seed, value } := by
  rw [decode_selected h0] at h
  by_cases h32 : w = 32
  · subst h32
    cases h
    rfl
  by_cases h64 : w = 64
  · subst h64
    cases h
    rfl
  rw [dif_neg h32, dif_neg h64] at h
  cases h
  rw [encode, selectorCode_generic h32 h64]

/-- The encoder inverts the decoder on whatever the decoder accepts. -/
theorem encode_of_decode {q : Request} {i : Instr} (h : decode q = .ok i) : encode i = q := by
  obtain ⟨h1, hcode⟩ := decode_ok_legal h
  obtain ⟨w, alg, seed, value⟩ := q
  obtain rfl : alg = selectorCode w := hcode
  exact encode_of_decode_selected (Nat.one_le_iff_ne_zero.mp h1) seed value h

/-- An operation's request has the operation's width. -/
@[simp] theorem encode_width (i : Instr) : (encode i).width = i.width := by cases i <;> rfl

@[simp] theorem encode_seed_toNat (i : Instr) : (encode i).seed.toNat = i.seed.toNat := by cases i <;> rfl

@[simp] theorem encode_value_toNat (i : Instr) : (encode i).value.toNat = i.value.toNat := by cases i <;> rfl

/-- The decoder reads only well-formed operations. -/
theorem wellFormed_of_decode {q : Request} {i : Instr} (h : decode q = .ok i) : i.wellFormed = true := by
  obtain ⟨h1, hcode⟩ := decode_ok_legal h
  obtain rfl := encode_of_decode h
  rw [encode_width] at h1 hcode
  exact (wellFormed_iff i).mpr ⟨Nat.one_le_iff_ne_zero.mp h1, hcode.symm⟩

/-- What the decoder reads from a request has the request's width and words. -/
theorem operands_of_decode {q : Request} {i : Instr} (h : decode q = .ok i) :
    i.width = q.width ∧ i.seed.toNat = q.seed.toNat ∧ i.value.toNat = q.value.toNat := by
  obtain rfl := encode_of_decode h
  exact ⟨(encode_width i).symm, (encode_seed_toNat i).symm, (encode_value_toNat i).symm⟩

/-- A request is accepted exactly when its width is legal and its code is the one of its width. -/
theorem decode_ok_iff (q : Request) : (∃ i, decode q = .ok i) ↔ 1 ≤ q.width ∧ q.alg = selectorCode q.width := by
  constructor
  · rintro ⟨i, h⟩
    exact decode_ok_legal h
  · rintro ⟨h1, hcode⟩
    obtain ⟨w, alg, seed, value⟩ := q
    obtain rfl : alg = selectorCode w := hcode
    rw [decode_selected (Nat.one_le_iff_ne_zero.mp h1)]
    split_ifs <;> exact ⟨_, rfl⟩

theorem decode_width_zero {q : Request} (h : q.width = 0) : decode q = .error .illegalWidth := by
  rw [decode, if_pos h]

theorem decode_reserved {q : Request} (h1 : 1 ≤ q.width) (h : q.alg = 0b11#2) :
    decode q = .error .reservedSelector := by
  rw [decode, if_neg (Nat.one_le_iff_ne_zero.mp h1), h, selectRow_reserved]

/-- A code of the table that is not the one of the width is refused by name (log entry 5). -/
theorem decode_mismatch {q : Request} (h1 : 1 ≤ q.width) (h3 : q.alg ≠ 0b11#2)
    (h : q.alg ≠ selectorCode q.width) : decode q = .error .selectorMismatch := by
  obtain ⟨w, alg, seed, value⟩ := q
  have h0 : w ≠ 0 := Nat.one_le_iff_ne_zero.mp h1
  rcases selector_cases alg with rfl | rfl | rfl | rfl
  · have hw : w = 32 ∨ w = 64 := by
      by_contra hw
      exact h (selectorCode_generic (fun e => hw (.inl e)) (fun e => hw (.inr e))).symm
    simp [decode, h0, hw]
  · have hw : w ≠ 32 := fun e => h (by subst e; rfl)
    simp [decode, h0, hw]
  · have hw : w ≠ 64 := fun e => h (by subst e; rfl)
    simp [decode, h0, hw]
  · exact absurd rfl h3

/-- Settles O3: the decoder inverts the encoder, row by row. -/
theorem decodeOfEncodeIsTheOperation : Obligations.DecodeOfEncodeIsTheOperation :=
  fun _ h => decode_encode h

/-- Settles O4: an accepted request has a legal width and the code of that width, and such a request is the encoding
of what is read from it. -/
theorem acceptedRequestIsTheEncoding : Obligations.AcceptedRequestIsTheEncoding :=
  fun _ _ h => ⟨wellFormed_of_decode h, encode_of_decode h⟩

/-- Settles O5: the code written out in the statement is `selectorCode` of the width, and what is read under it is a
well-formed operation, whose algorithm its width determines. -/
theorem selectionIsByWidthAlone : Obligations.SelectionIsByWidthAlone := by
  refine ⟨?selected, decode_ok_iff⟩
  intro w seed value h1
  obtain ⟨i, hdec⟩ := (decode_ok_iff { width := w, alg := selectorCode w, seed, value }).mpr ⟨h1, rfl⟩
  obtain ⟨hw, hseed, hvalue⟩ := operands_of_decode hdec
  have halg := algorithm_of_wellFormed (wellFormed_of_decode hdec)
  rw [hw] at halg
  exact ⟨i, hdec, halg, hw, hseed, hvalue⟩

/-- Settles O6: each request carries the code of its row, and its width passes the row's test. -/
theorem writtenRequestsDecode : Obligations.WrittenRequestsDecode :=
  ⟨decode_mix32, decode_mix64, decode_mixg (by decide) (by decide) (by decide),
    decode_mixg (by decide) (by decide) (by decide), decode_mixg (by decide) (by decide) (by decide)⟩

end Sys2Proof
end


section
/-! What an operation and a step answer where they do not complete, and what every operation of a caller leaves of
the instance: the facts that the statements about the instance share. -/

namespace Sys2Proof.Machine

/-- The three arms of `exec` are one evaluation, at the operation's width and under its row's code. -/
theorem exec_eq_evaluate (i : Instr) (s : State) :
    exec i s = evaluate i.width (encode i).alg i.seed i.value s := by
  cases i <;> rfl

theorem exec_width_zero {i : Instr} (h0 : i.width = 0) (s : State) : exec i s = .refused .illegalWidth := by
  rw [exec_eq_evaluate, evaluate, if_pos h0]

theorem exec_feedback {i : Instr} {s : State} (h0 : i.width ≠ 0) (hd : s.inst.seedDriver = .newSeedO) :
    exec i s = .refused .combinationalFeedback := by
  rw [exec_eq_evaluate, evaluate, if_neg h0, if_pos hd]

/-- On a legal instance an operation that is ill-formed or of another width is refused by name (log entry 5). -/
theorem exec_notSelected {i : Instr} {s : State} (hs : s.Legal) (h0 : i.width ≠ 0)
    (hi : ¬ (i.wellFormed = true ∧ i.width = s.inst.width)) : exec i s = .refused .notSelected := by
  obtain ⟨-, -, hd⟩ := hs
  have hd' : s.inst.seedDriver ≠ .newSeedO := by rw [hd]; decide
  rw [exec_eq_evaluate, evaluate, if_neg h0, if_neg hd']
  by_cases hw : s.inst.width = i.width
  · have hcode : selectorCode i.width ≠ (encode i).alg := fun hc => hi ⟨(wellFormed_iff i).mpr ⟨h0, hc⟩, hw.symm⟩
    rw [dif_pos hw, if_neg (fun h => hcode h.2)]
  · rw [dif_neg hw]

/-- A step of an instance with no meaning refuses for the reason that instance has none. -/
theorem step_refused {s : State} {r : Refusal} (h : Instance.refusal s.inst = some r) : step s = .refused r := by
  unfold Instance.refusal at h
  split_ifs at h with h0 h3 hcode hd <;> cases h
  · exact step_of_decode_error (decode_width_zero h0)
  · exact step_of_decode_error (decode_reserved (Nat.one_le_iff_ne_zero.mpr h0) h3)
  · exact step_of_decode_error (decode_mismatch (Nat.one_le_iff_ne_zero.mpr h0) h3 hcode)
  · obtain ⟨i, hdec, -, hw, -⟩ := decode_request_selected (Nat.one_le_iff_ne_zero.mpr h0) (not_not.mp hcode)
    rw [step_of_decode_ok hdec, exec_feedback (hw ▸ h0) hd]

/-- An instance is legal and evaluates in place, or it has no meaning, and then neither a step nor the output has. -/
theorem legal_or_refused (s : State) :
    (s.Legal ∧ step s = .next s ∧ s.newSeedO = .ok (combine s.inst.width s.seedI s.valueI)) ∨
      ∃ r, ¬ s.Legal ∧ step s = .refused r ∧ s.newSeedO = .error r := by
  cases hr : Instance.refusal s.inst with
  | none =>
    have hs := (refusal_eq_none_iff s).mp hr
    exact .inl ⟨hs, step_legal hs, newSeedO_legal hs⟩
  | some r =>
    refine .inr ⟨r, fun hs => ?_, step_refused hr, newSeedO_refused hr⟩
    rw [(refusal_eq_none_iff s).mpr hs] at hr
    cases hr

/-- Only a legal instance has an output. -/
theorem legal_of_newSeedO_ok {s : State} {a : Word s.inst.width} (h : s.newSeedO = .ok a) : s.Legal := by
  obtain ⟨hs, -⟩ | ⟨r, -, -, hout⟩ := legal_or_refused s
  · exact hs
  · rw [hout] at h
    cases h

/-- A legal instance meets the invariant: its output needs nothing to be brought up to date (R93). -/
theorem inv_of_legal {s : State} (h : s.Legal) : s.Inv := ⟨h, newSeedO_legal h⟩

theorem legal_powerUp {w : Nat} (h1 : 1 ≤ w) (seed value : Word w) : (State.powerUp w seed value).Legal :=
  ⟨h1, rfl, rfl⟩

theorem exec_inst {i : Instr} {s t : State} (h : exec i s = .next t) : t.inst = s.inst := by
  obtain ⟨-, -, ⟨hw, rfl⟩, -⟩ := exec_next h
  exact drive_inst s _ _

theorem invoke_inst {w : Nat} {seed value : Word w} {s t : State} (h : invoke w seed value s = .next t) :
    t.inst = s.inst := by
  unfold invoke at h
  split_ifs at h with hw
  obtain ⟨-, rfl⟩ := step_next h
  exact drive_inst s _ _

theorem call_inst {w : Nat} {seed value r : Word w} {s t : State} (h : call w seed value s = .ok (r, t)) :
    t.inst = s.inst := by
  unfold call at h
  split at h
  next t' hinv =>
    cases hr : t'.result w with
    | error e => rw [hr] at h; cases h
    | ok a =>
      rw [hr] at h
      cases h
      exact invoke_inst hinv
  next f => exact nomatch f
  next => cases h

theorem foldRun_inst {w : Nat} {vs : List (Word w)} {acc r : Word w} {s t : State}
    (h : foldRun w acc vs s = .ok (r, t)) : t.inst = s.inst := by
  induction vs generalizing acc s with
  | nil => cases h; rfl
  | cons v vs ih =>
    unfold foldRun at h
    split at h
    next hcall => exact (ih h).trans (call_inst hcall)
    next => cases h

end Sys2Proof.Machine
end


section
/-! Proofs of the statements of 00_scope.md, 10_state.md and 70_reset_and_hazards.md about the instance: its
invariant, its refusals, its inputs and its output. -/

namespace Sys2Proof.Machine

/-- Settles O1: the state the model starts from is a power-up state of a legal width. -/
theorem resetMeetsInvariant : Obligations.ResetMeetsInvariant :=
  inv_of_legal (legal_powerUp (by decide) Config.resetInput Config.resetInput)

/-- Settles O2: the invariant is a fact about the instance alone, and no step, operation, drive or fold
writes that. -/
theorem stepKeepsInvariant : Obligations.StepKeepsInvariant := by
  rintro s ⟨hs, -⟩
  have keep : ∀ {t : State}, t.inst = s.inst → t.Inv := fun h => inv_of_legal (legal_of_inst_eq h hs)
  refine ⟨?step, ?exec, ?drive, ?fold⟩
  case step =>
    intro t h
    obtain ⟨-, rfl⟩ := step_next h
    exact keep rfl
  case exec => exact fun i t h => keep (exec_inst h)
  case drive =>
    exact fun seed value =>
      ⟨keep (drive_inst s seed value), keep (driveSeed_inst s seed), keep (driveValue_inst s value)⟩
  case fold => exact fun w acc vs r t h => keep (foldRun_inst h)

/-- Settles O7: the operation read from the ports is the encoding's inverse image of the request there, so it has the
width and the words of the ports. -/
theorem stepRunsTheDecodedOperation : Obligations.StepRunsTheDecodedOperation := by
  refine ⟨fun s i h => ?_, fun s e h => step_of_decode_error h⟩
  obtain ⟨hw, hseed, hvalue⟩ := operands_of_decode h
  exact ⟨step_of_decode_ok h, wellFormed_of_decode h, hw, hseed, hvalue⟩

/-- Settles O8: the placed state's request is the table word's own request, and a request that decodes stands on a
legal instance. -/
theorem placedTableWordRunsNext : Obligations.PlacedTableWordRunsNext := by
  intro s nbits w i h
  have hdec : decode (s.withFetchWord nbits w).request = .ok i := by
    rw [State.withFetchWord, placeRequest_request]
    rw [decodeTableWord] at h
    cases hq : decode (tableRequest nbits w) with
    | error e => rw [hq] at h; cases h
    | ok j => rw [hq] at h; cases h; rfl
  obtain ⟨h1, hcode⟩ := decode_ok_legal hdec
  have hstep := step_of_decode_ok hdec
  exact ⟨hstep, _, hstep.symm.trans (step_legal ⟨h1, hcode, placeRequest_seedDriver s _⟩)⟩

/-- Settles O9: each refused value is one the decoder or the evaluation tests for, and to drive words keeps a
legal instance legal. -/
theorem reservedValuesRefused : Obligations.ReservedValuesRefused := by
  refine ⟨?width, ?mixg, ?code, ?legal, ?accepted⟩
  case width => exact fun s h => step_of_decode_error (decode_width_zero h)
  case mixg => exact fun s seed value => exec_width_zero (i := .mixg 0 seed value) rfl s
  case code => exact fun s h1 h => step_of_decode_error (decode_reserved h1 h)
  case legal => exact fun s seed value hs => ⟨_, step_legal (legal_of_inst_eq (drive_inst s seed value) hs)⟩
  case accepted =>
    intro q i h
    obtain rfl := encode_of_decode h
    cases i with
    | mixg w seed value => exact .inl rfl
    | mix32 seed value => exact .inr (.inl rfl)
    | mix64 seed value => exact .inr (.inr rfl)

/-- Settles O10: what completes or has an output is a legal instance, whose seed is the caller's; and the wiring is
the last reason of the four. -/
theorem feedbackWiringRefused : Obligations.FeedbackWiringRefused := by
  intro s hd
  have illegal : ¬ s.Legal := by
    rintro ⟨-, -, hcaller⟩
    rw [hd] at hcaller
    cases hcaller
  refine ⟨fun t h => illegal (step_next h).1, fun i t h => illegal (exec_next h).1,
    fun r h => illegal (legal_of_newSeedO_ok h), fun h1 hcode => ?_⟩
  have hcode3 : s.inst.alg ≠ 0b11#2 := by
    rw [hcode, selectorCode]
    split_ifs <;> decide
  have hr : Instance.refusal s.inst = some .combinationalFeedback := by
    rw [Instance.refusal, if_neg (Nat.one_le_iff_ne_zero.mp h1), if_neg hcode3, if_neg (not_not.mpr hcode), if_pos hd]
  exact ⟨step_refused hr, newSeedO_refused hr⟩

/-- Settles O11: completion gives well-formedness and the width (`exec_next`), these give completion (`exec_legal`),
and elsewhere the evaluation's own tests refuse. -/
theorem operationCompletesExactlyWhereSelected : Obligations.OperationCompletesExactlyWhereSelected := by
  intro i s hs
  refine ⟨⟨?completes, ?selected⟩, exec_notSelected hs⟩
  case completes =>
    rintro ⟨t, h⟩
    obtain ⟨-, hi, ⟨hw, -⟩, -⟩ := exec_next h
    exact ⟨hi, hw.symm⟩
  case selected =>
    rintro ⟨hi, hw⟩
    exact ⟨_, exec_legal hs hi hw.symm⟩

/-- Settles O16: the next state is the old one with the operation's operands driven on its inputs. -/
theorem operationWritesOnlyThePorts : Obligations.OperationWritesOnlyThePorts := by
  intro i s t h
  obtain ⟨-, -, ⟨hw, rfl⟩, -⟩ := exec_next h
  refine ⟨drive_inst s _ _, hw, ?_, ?_⟩
  · rw [drive_seedI_toNat, BitVec.toNat_cast]
  · rw [drive_valueI_toNat, BitVec.toNat_cast]

/-- Settles O17: the output is the operation's by `exec_next`, and the instance stays legal, so that the output is
`COMBINE` of the words on the inputs too. -/
theorem operationOutputIsCombineOfItsOperands : Obligations.OperationOutputIsCombineOfItsOperands := by
  intro i s t h
  obtain ⟨hs, -, -, hout⟩ := exec_next h
  exact ⟨hout, newSeedO_legal (legal_of_inst_eq (exec_inst h) hs)⟩

/-- Where every step that completes answers its own state, so does every run. -/
theorem run_next_of_step_next {M : Host.Core} (hM : ∀ s t : M.State, M.step s = .next t → t = s) {k : Nat}
    {s t : M.State} (h : M.run k s = .next t) : t = s := by
  induction k generalizing s with
  | zero => cases h; rfl
  | succ k ih =>
    unfold Host.Core.run at h
    split at h
    next s' hstep => exact (ih h).trans (hM s s' hstep)
    next => cases h
    next => cases h

/-- Settles O18: a step that completes answers the state it starts from. -/
theorem runKeepsTheInstance : Obligations.RunKeepsTheInstance :=
  fun _ _ _ h => run_next_of_step_next (M := Sys2Proof.core) (fun _ _ hstep => (step_next hstep).2) h

/-- Settles O21: a step that completes answers its own state, and an operation that completed finds a legal instance
of its width again and drives the same words on it. -/
theorem repeatedStepChangesNothing : Obligations.RepeatedStepChangesNothing := by
  refine ⟨?step, ?exec⟩
  case step =>
    intro s t h
    obtain ⟨-, rfl⟩ := step_next h
    exact ⟨rfl, h⟩
  case exec =>
    intro i s t h
    obtain ⟨hs, hi, ⟨hw, rfl⟩, -⟩ := exec_next h
    exact exec_legal (legal_of_inst_eq (drive_inst s _ _) hs) hi hw

/-- On a legal instance, whatever is driven, a caller finds `COMBINE` of the words then on the inputs. -/
theorem result_legal {s : State} (h : s.Legal) :
    s.result s.inst.width = .ok (combine s.inst.width s.seedI s.valueI) :=
  (result_self s).trans (newSeedO_legal h)

/-- Settles O25: the driven states have the same legal instance, and each one's output is `COMBINE` of its own
inputs with no step taken. -/
theorem changedInputIsCombinedAsPresent : Obligations.ChangedInputIsCombinedAsPresent := by
  intro s seed value hs
  have hboth : (s.drive seed value).Legal := legal_of_inst_eq (drive_inst s seed value) hs
  have hseed : (s.driveSeed seed).Legal := legal_of_inst_eq (driveSeed_inst s seed) hs
  have hvalue : (s.driveValue value).Legal := legal_of_inst_eq (driveValue_inst s value) hs
  exact ⟨newSeedO_legal hs, result_legal hboth, result_legal hseed, result_legal hvalue,
    step_legal hboth, step_legal hseed, step_legal hvalue⟩

/-- Settles O26: a power-up state of a legal width is a legal instance. -/
theorem powerUpNeedsNoInitialisation : Obligations.PowerUpNeedsNoInitialisation := by
  intro w seed value h1
  have hs := legal_powerUp h1 seed value
  exact ⟨newSeedO_legal hs, step_legal hs⟩

/-- Settles O45: every instance is legal, with a step and an output, or has neither for one and the same reason. -/
theorem stepRefusesWhatHasNoOutput : Obligations.StepRefusesWhatHasNoOutput := by
  intro s
  obtain ⟨hs, hstep, hout⟩ | ⟨r, hs, hstep, hout⟩ := legal_or_refused s
  · exact ⟨fun r => by simp [hstep, hout], iff_of_true hs ⟨s, hstep⟩, iff_of_true hs hout⟩
  · exact ⟨fun r' => by simp [hstep, hout], iff_of_false hs (by simp [hstep]),
      iff_of_false hs (by simp [State.Settled, hout])⟩

end Sys2Proof.Machine
end


section
/-! Proofs of the statements about a caller: turns (R31 of 20_memory.md) and the fold (R75 and R76 of
43_hash_combine_dispatch.md). -/

namespace Sys2Proof.Machine

/-- A fold through a legal instance is the left fold of `COMBINE`, and the instance stays. -/
theorem foldRun_legal {w : Nat} (vs : List (Word w)) (acc : Word w) {s : State} (h : s.Legal)
    (hw : s.inst.width = w) : ∃ t, foldRun w acc vs s = .ok (vs.foldl (combine w) acc, t) ∧ t.inst = s.inst := by
  induction vs generalizing acc s with
  | nil => exact ⟨s, rfl, rfl⟩
  | cons v vs ih =>
    obtain ⟨t, hcall, hinst⟩ := call_legal acc v h hw
    obtain ⟨u, hrun, hinst'⟩ := ih (combine w acc v) (legal_of_inst_eq hinst h) (by rw [hinst, hw])
    exact ⟨u, by rw [foldRun, hcall]; exact hrun, hinst'.trans hinst⟩

/-- A caller of a legal instance is served `COMBINE` of its own words, and the others are served after it by an instance
that is the same. -/
theorem serve_legal {w : Nat} (requests : List (Word w × Word w)) {s : State} (h : s.Legal) (hw : s.inst.width = w) :
    serve w requests s = requests.map (fun p => some (combine w p.1 p.2)) := by
  induction requests generalizing s with
  | nil => rfl
  | cons p rest ih =>
    obtain ⟨seed, value⟩ := p
    obtain ⟨t, hcall, hinst⟩ := call_legal seed value h hw
    rw [serve, hcall, List.map_cons, ← ih (legal_of_inst_eq hinst h) (by rw [hinst, hw])]

/-- Settles O22, by induction on the list of requests: each call leaves the instance as it was. -/
theorem callersByTurnsGetTheirOwnResults : Obligations.CallersByTurnsGetTheirOwnResults :=
  fun _ _ requests h hw => serve_legal requests h hw

/-- Settles O23, by induction on the list of values; a value added at the end is the last step of the left fold. -/
theorem foldChainsOperations : Obligations.FoldChainsOperations := by
  intro w s seed0 h hw
  refine ⟨rfl, fun vs => foldRun_legal vs seed0 h hw, fun vs v => ?_⟩
  obtain ⟨t, hrun, -⟩ := foldRun_legal vs seed0 h hw
  obtain ⟨t', hrun', -⟩ := foldRun_legal (vs ++ [v]) seed0 h hw
  rw [List.foldl_concat] at hrun'
  exact ⟨_, t, t', hrun, hrun'⟩

/-- The two orders of a fold of two values, through one legal instance. -/
theorem foldRun_pair_legal {w : Nat} (a b : Word w) {s : State} (h : s.Legal) (hw : s.inst.width = w)
    {r r' : Word w} (hr : combine w (combine w 0 a) b = r) (hr' : combine w (combine w 0 b) a = r') :
    ∃ t t', foldRun w 0 [a, b] s = .ok (r, t) ∧ foldRun w 0 [b, a] s = .ok (r', t') := by
  obtain ⟨t, hrun, -⟩ := foldRun_legal [a, b] 0 h hw
  obtain ⟨t', hrun', -⟩ := foldRun_legal [b, a] 0 h hw
  exact ⟨t, t', hr ▸ hrun, hr' ▸ hrun'⟩

/-- Settles O24: a fold of two values is two applications of `COMBINE`, which evaluate to the words of R75. -/
theorem foldOrderMatters : Obligations.FoldOrderMatters := by
  refine ⟨?width32, ?width64, ?width16, ?asymmetric32, ?asymmetric64⟩
  case width32 => exact fun s h hw => foldRun_pair_legal 1 2 h hw (by decide) (by decide)
  case width64 => exact fun s h hw => foldRun_pair_legal 1 2 h hw (by decide) (by decide)
  case width16 => exact fun s h hw => foldRun_pair_legal 1 2 h hw (by decide) (by decide)
  case asymmetric32 => decide
  case asymmetric64 => decide

end Sys2Proof.Machine
end


section
/-! Proofs of the statements about words and primitives: the ports (R20 of 10_state.md), the literals (R42 of
30_encoding.md) and the arithmetic (R48 to R57 of 40_arithmetic_primitives.md). -/

namespace Sys2Proof.Machine

/-! ### Ports -/

/-- The low `w` bits of an integer, each with its weight. -/
theorem mod_two_pow_eq_sum_testBit (n w : Nat) :
    n % 2 ^ w = (Finset.range w).sum (fun i => (n.testBit i).toNat * 2 ^ i) := by
  induction w with
  | zero => rw [pow_zero, Nat.mod_one, Finset.sum_range_zero]
  | succ w ih => rw [Finset.sum_range_succ, ← ih, Nat.mod_pow_succ, Nat.toNat_testBit, Nat.mul_comm]

/-- A word is the sum of the weights of its bits (R20). -/
theorem toNat_eq_sum_getLsbD {w : Nat} (x : Word w) :
    x.toNat = (Finset.range w).sum (fun i => (x.getLsbD i).toNat * 2 ^ i) :=
  (Nat.mod_eq_of_lt x.isLt).symm.trans (mod_two_pow_eq_sum_testBit x.toNat w)

theorem getLsbD_zero_eq_true_iff {w : Nat} (x : Word w) : x.getLsbD 0 = true ↔ x.toNat % 2 = 1 := by
  rw [← BitVec.testBit_toNat, Nat.testBit_zero, decide_eq_true_iff]

/-- Settles O27: wire `i` of a port is bit `i` of its word, and the last and the first bit of a word are the most and
the least significant. -/
theorem portWiresCarryWeights : Obligations.PortWiresCarryWeights := by
  intro s
  refine ⟨toNat_eq_sum_getLsbD s.seedI, toNat_eq_sum_getLsbD s.valueI, ?output, ?ends⟩
  case output =>
    intro hs
    have hout := newSeedO_legal hs
    refine ⟨_, hout, fun i => ?_, ?_⟩
    · rw [State.newSeedWire, hout]
      rfl
    · rw [outputNat_legal hs, ← toNat_eq_sum_getLsbD]
  case ends =>
    intro _
    refine ⟨?_, getLsbD_zero_eq_true_iff s.seedI⟩
    rw [State.seedWire, BitVec.getLsbD_last, decide_eq_true_iff]

/-! ### Literals -/

/-- A literal that fits the word keeps its value. -/
theorem lit_toNat_of_lt {w k n : Nat} (hn : n < 2 ^ k) (hk : k ≤ w) : (lit w n).toNat = n := by
  rw [lit_toNat, Nat.mod_eq_of_lt (hn.trans_le (Nat.pow_le_pow_right (by decide) hk))]

/-- A literal narrower than the word is zero-extended. -/
theorem lit_getLsbD_of_lt {w k n i : Nat} (hn : n < 2 ^ k) (hk : k ≤ w) (hi : k ≤ i) :
    (lit w n).getLsbD i = false := by
  rw [← BitVec.testBit_toNat, lit_toNat_of_lt hn hk]
  exact Nat.testBit_lt_two_pow (hn.trans_le (Nat.pow_le_pow_right (by decide) hi))

/-- The constant of `MIXG` is 32 bits wide, so it enters wider words unchanged. -/
theorem lit_litG_of_lt {w : Nat} (h : 32 < w) : (lit w litG).toNat = 0x9e3779b9 :=
  lit_toNat_of_lt (k := 32) (by decide) h.le

/-- Settles O28: a literal's reduction is absorbed by that of the sum or product, and does nothing where it fits. -/
theorem literalsEnterAsIntegers : Obligations.LiteralsEnterAsIntegers :=
  ⟨fun _ n a => ⟨addW_lit_toNat a n, mulW_lit_toNat a n⟩,
    fun _ _ _ _ hn hk => ⟨lit_toNat_of_lt hn hk, lit_getLsbD_of_lt hn hk⟩,
    lit_toNat, by decide, fun _ => lit_litG_of_lt, by decide, by decide, by decide, by decide, by decide, by decide,
    by decide⟩

/-! ### Addition and multiplication -/

/-- All ones plus one carries out of the word (R48). -/
theorem addW_ones_one (w : Nat) : addW (lit w (2 ^ w - 1)) (lit w 1) = 0 := by
  apply BitVec.eq_of_toNat_eq
  rw [addW_lit_toNat, lit_toNat, Nat.mod_add_mod, Nat.sub_add_cancel Nat.one_le_two_pow, Nat.mod_self]
  exact BitVec.toNat_zero.symm

/-- Settles O29: words under `addW` are the library's additive group of bit vectors. -/
theorem additionWraps : Obligations.AdditionWraps :=
  ⟨fun w a b c => ⟨addW_toNat a b, BitVec.add_zero a, addW_ones_one w, BitVec.add_comm a b, BitVec.add_assoc a b c⟩,
    by decide⟩

/-- The low half of a product is the same for signed reading (R49). -/
theorem mulW_eq_ofInt {w : Nat} (a b : Word w) : mulW a b = BitVec.ofInt w (a.toInt * b.toInt) := by
  rw [BitVec.ofInt_mul, BitVec.ofInt_toInt, BitVec.ofInt_toInt, mulW]

/-- The top bit times a word keeps the word's lowest bit only (R49). -/
theorem mulW_topBit {w : Nat} (h1 : 1 ≤ w) (b : Word w) :
    mulW (lit w (2 ^ (w - 1))) b = if b.toNat % 2 = 1 then lit w (2 ^ (w - 1)) else 0 := by
  obtain ⟨k, rfl⟩ := Nat.exists_eq_add_of_le' h1
  have hprod : (mulW (lit (k + 1) (2 ^ k)) b).toNat = 2 ^ k * (b.toNat % 2) := by
    rw [mulW_toNat, lit_toNat, Nat.mod_mul_mod, pow_succ, Nat.mul_mod_mul_left]
  apply BitVec.eq_of_toNat_eq
  rw [Nat.add_sub_cancel, hprod]
  split_ifs with hb
  · rw [hb, Nat.mul_one, lit_toNat_of_lt (Nat.pow_lt_pow_succ (by decide)) le_rfl]
  · rw [Nat.mod_two_ne_one.mp hb, Nat.mul_zero]
    exact BitVec.toNat_zero.symm

/-- An odd multiplier is prime to `2^W`, so it cancels (R49). -/
theorem mulW_bijective_of_odd {w : Nat} {b : Word w} (hb : b.toNat % 2 = 1) :
    Function.Bijective (fun x : Word w => mulW x b) := by
  refine Finite.injective_iff_bijective.mp fun x y hxy => ?_
  have hcoprime : Nat.gcd (2 ^ w) b.toNat = 1 := (Nat.coprime_two_left.mpr (Nat.odd_iff.mpr hb)).pow_left w
  have hmod : x.toNat * b.toNat ≡ y.toNat * b.toNat [MOD 2 ^ w] := by
    rw [Nat.ModEq, ← mulW_toNat, ← mulW_toNat]
    exact congrArg BitVec.toNat hxy
  exact BitVec.eq_of_toNat_eq (Nat.ModEq.eq_of_lt_of_lt (hmod.cancel_right_of_coprime hcoprime) x.isLt y.isLt)

/-- Settles O30: the product's lemmas, and the block's multipliers are odd as they stand. -/
theorem multiplicationKeepsTheLowHalf : Obligations.MultiplicationKeepsTheLowHalf :=
  ⟨fun _ a b => ⟨mulW_toNat a b, mulW_eq_ofInt a b, BitVec.mul_zero, BitVec.mul_one a, fun h1 => mulW_topBit h1 b,
    mulW_bijective_of_odd⟩, by decide, by decide, by decide, by decide, by decide, by decide⟩

/-! ### Shifts, inclusive or and the rotate -/

@[simp] theorem orW_getLsbD {w : Nat} (a b : Word w) (i : Nat) :
    (orW a b).getLsbD i = (a.getLsbD i || b.getLsbD i) :=
  BitVec.getLsbD_or

@[simp] theorem shlW_getLsbD {w : Nat} (a : Word w) (n i : Nat) :
    (shlW a n).getLsbD i = (decide (i < w) && !decide (i < n) && a.getLsbD (i - n)) :=
  BitVec.getLsbD_shiftLeft a n

@[simp] theorem shrW_getLsbD {w : Nat} (a : Word w) (n i : Nat) : (shrW a n).getLsbD i = a.getLsbD (n + i) :=
  BitVec.getLsbD_ushiftRight a n i

theorem shlW_zero {w : Nat} (a : Word w) : shlW a 0 = a := BitVec.shiftLeft_zero a

theorem shrW_zero {w : Nat} (a : Word w) : shrW a 0 = a := BitVec.ushiftRight_zero a

/-- A left shift by the width or more loses every bit (D8). -/
theorem shlW_eq_zero {w n : Nat} (h : w ≤ n) (a : Word w) : shlW a n = 0 := BitVec.shiftLeft_eq_zero h

/-- A right shift by the width or more loses every bit (D8). -/
theorem shrW_eq_zero {w n : Nat} (h : w ≤ n) (a : Word w) : shrW a n = 0 := BitVec.ushiftRight_eq_zero h

/-- Settles O33: where the shifts put each bit, and their values over the integers. -/
theorem shiftsAreTotalAndLogical : Obligations.ShiftsAreTotalAndLogical := by
  refine ⟨?shifts, ?top17, by decide, by decide, by decide, by decide⟩
  case shifts =>
    intro w a n
    refine ⟨shlW_toNat a n, shrW_toNat a n, shlW_zero a, shrW_zero a,
      fun h => ⟨shlW_eq_zero h a, shrW_eq_zero h a⟩, fun i hi => ?_, fun i hi => ?_⟩
    · simp [hi]
    · rw [shrW_getLsbD]
      exact BitVec.getLsbD_of_ge a _ (by omega)
  case top17 =>
    intro a
    refine ⟨?_, fun i _ => ?_⟩
    · rw [shrW_toNat]
      exact Nat.div_lt_of_lt_mul a.isLt
    · rw [shrW_getLsbD, Nat.add_comm]

/-- The two shifts of the rotate share no bit: the left one's bits are at `r` and above, the right one's below. -/
theorem shlW_and_shrW_eq_zero (x : Word 32) {r : Nat} (hr : r ≤ 32) : shlW x r &&& shrW x (32 - r) = 0 := by
  apply BitVec.eq_of_getLsbD_eq
  intro i _
  by_cases h : i < r
  · simp [h]
  · simp [BitVec.getLsbD_of_ge x (32 - r + i) (by omega)]

/-- Words that share no bit have the same inclusive and exclusive or. -/
theorem orW_eq_xorW_of_disjoint {w : Nat} {a b : Word w} (h : a &&& b = 0) : orW a b = xorW a b := by
  apply BitVec.eq_of_getLsbD_eq
  intro i _
  have hi : (a.getLsbD i && b.getLsbD i) = false := by
    rw [← BitVec.getLsbD_and, h]
    exact BitVec.getLsbD_zero
  rw [orW_getLsbD, xorW_getLsbD]
  cases ha : a.getLsbD i with
  | false => rw [Bool.false_or, Bool.false_xor]
  | true =>
    rw [ha, Bool.true_and] at hi
    rw [hi, Bool.or_false, Bool.xor_false]

/-- Words that share no bit add without carry. -/
theorem orW_eq_addW_of_disjoint {w : Nat} {a b : Word w} (h : a &&& b = 0) : orW a b = addW a b :=
  (BitVec.add_eq_or_of_and_eq_zero a b h).symm

/-- Settles O32: inside the rotate the two shifts share no bit. -/
theorem inclusiveOrJoinsDisjointBitsInTheRotate : Obligations.InclusiveOrJoinsDisjointBitsInTheRotate := by
  refine ⟨?bits, ?rotate, ?printed⟩
  case bits =>
    intro w a b i _
    rw [orW_getLsbD, Bool.or_eq_true]
  case rotate =>
    intro x r _ hr
    have h := shlW_and_shrW_eq_zero x (hr.trans (by decide))
    exact ⟨orW_eq_xorW_of_disjoint h, orW_eq_addW_of_disjoint h⟩
  case printed => decide

/-- Bit `j` of a rotate is the bit that stands `r` places below it, round the word. -/
theorem rotl32_getLsbD (x : Word 32) {r : Nat} (hr : r ≤ 32) {j : Nat} (hj : j < 32) :
    (rotl32 x r).getLsbD j = x.getLsbD ((j + (32 - r)) % 32) := by
  rw [rotl32, orW_getLsbD, shlW_getLsbD, shrW_getLsbD]
  by_cases h : j < r
  · have hindex : (j + (32 - r)) % 32 = 32 - r + j := by omega
    simp [h, hindex]
  · have hindex : (j + (32 - r)) % 32 = j - r := by omega
    simp [h, hj, hindex, BitVec.getLsbD_of_ge x (32 - r + j) (by omega)]

/-- Bit `i` goes to bit `(i + r) mod 32` (R54). -/
theorem rotl32_getLsbD_add (x : Word 32) {r : Nat} (hr : r ≤ 32) {i : Nat} (hi : i < 32) :
    (rotl32 x r).getLsbD ((i + r) % 32) = x.getLsbD i := by
  rw [rotl32_getLsbD x hr (by omega), show ((i + r) % 32 + (32 - r)) % 32 = i by omega]

/-- The rotate by `32 - r` undoes the rotate by `r`. -/
theorem rotl32_rotl32_sub (x : Word 32) {r : Nat} (hr : r ≤ 32) : rotl32 (rotl32 x r) (32 - r) = x := by
  apply BitVec.eq_of_getLsbD_eq
  intro j hj
  rw [rotl32_getLsbD _ (by omega) hj, rotl32_getLsbD x hr (by omega),
    show ((j + (32 - (32 - r))) % 32 + (32 - r)) % 32 = j by omega]

theorem rotl32_bijective {r : Nat} (hr : r ≤ 32) : Function.Bijective (fun y => rotl32 y r) := by
  refine Function.bijective_iff_has_inverse.mpr ⟨fun y => rotl32 y (32 - r), fun y => rotl32_rotl32_sub y hr, ?_⟩
  intro y
  have h := rotl32_rotl32_sub y (Nat.sub_le 32 r)
  rwa [Nat.sub_sub_self hr] at h

@[simp] theorem rotl32_zero_word {r : Nat} (hr : r ≤ 32) : rotl32 0 r = 0 := by
  apply BitVec.eq_of_getLsbD_eq
  intro j hj
  rw [rotl32_getLsbD 0 hr hj]
  exact BitVec.getLsbD_zero.trans BitVec.getLsbD_zero.symm

theorem rotl32_ones {r : Nat} (hr : r ≤ 32) : rotl32 (BitVec.allOnes 32) r = BitVec.allOnes 32 := by
  apply BitVec.eq_of_getLsbD_eq
  intro j hj
  rw [rotl32_getLsbD _ hr hj, BitVec.getLsbD_allOnes, BitVec.getLsbD_allOnes, decide_eq_true hj,
    decide_eq_true (Nat.mod_lt _ (by decide))]

theorem rotl32_zero (x : Word 32) : rotl32 x 0 = x := by
  rw [rotl32, shlW_zero, shrW_eq_zero le_rfl]
  exact BitVec.or_zero

theorem rotl32_32 (x : Word 32) : rotl32 x 32 = x := by
  rw [rotl32, shlW_eq_zero le_rfl, shrW_zero]
  exact BitVec.zero_or

/-- Settles O34: bit by bit the rotate is a turn of the word, so the turn by the rest undoes it, and a word of equal
bits stays. -/
theorem rotateMovesEveryBit : Obligations.RotateMovesEveryBit :=
  ⟨fun x r hr => ⟨rotl32_toNat x r, fun _ hi => rotl32_getLsbD_add x hr hi, rotl32_rotl32_sub x hr,
    rotl32_bijective hr, rotl32_zero_word hr, rotl32_ones hr⟩,
    fun x => ⟨rotl32_zero x, rotl32_32 x⟩, by decide, by decide, by decide, by decide⟩

/-! ### The identities of R57 -/

/-- Times five is a shift by two and the word itself (R57 (a)). -/
theorem mulW_five {w : Nat} (h : Word w) : mulW h (lit w 5) = addW (shlW h 2) h := by
  have hsum : h.toNat * 5 = h.toNat * 2 ^ 2 + h.toNat := by omega
  apply BitVec.eq_of_toNat_eq
  rw [mulW_lit_toNat, addW_toNat, shlW_toNat, Nat.mod_add_mod, hsum]

/-- `5 h + n` may be reduced once (R57 (b)). -/
theorem addW_mulW_five_toNat {w : Nat} (n : Nat) (h : Word w) :
    (addW (mulW h (lit w 5)) (lit w n)).toNat = (5 * h.toNat + n) % 2 ^ w := by
  rw [addW_lit_toNat, mulW_lit_toNat, Nat.mod_add_mod, Nat.mul_comm]

/-- The rotate puts the low `32 - r` bits above the high `r` bits (R57 (c)). -/
theorem rotl32_toNat_concat (x : Word 32) {r : Nat} (hr : r ≤ 32) :
    (rotl32 x r).toNat = (x.toNat % 2 ^ (32 - r)) * 2 ^ r + x.toNat / 2 ^ (32 - r) := by
  have hsplit : 2 ^ 32 = 2 ^ (32 - r) * 2 ^ r := by rw [← pow_add, Nat.sub_add_cancel hr]
  have hhigh : x.toNat / 2 ^ (32 - r) < 2 ^ r := Nat.div_lt_of_lt_mul (hsplit ▸ x.isLt)
  rw [rotl32_toNat, hsplit, Nat.mul_mod_mul_right, Nat.mul_comm, Nat.two_pow_add_eq_or_of_lt hhigh]

/-- A second shift by 47 leaves nothing, so the xor with the shifted word does not change the top bits (R57 (d)). -/
theorem shrW_xorW_shrW_47 (k : Word 64) : shrW (xorW k (shrW k 47)) 47 = shrW k 47 := by
  apply BitVec.eq_of_getLsbD_eq
  intro i _
  rw [shrW_getLsbD, xorW_getLsbD, shrW_getLsbD, shrW_getLsbD, BitVec.getLsbD_of_ge k (47 + (47 + i)) (by omega),
    Bool.xor_false]

theorem xorW_xorW_cancel_right {w : Nat} (a b : Word w) : xorW (xorW a b) b = a := by
  rw [xorW, xorW, BitVec.xor_assoc, BitVec.xor_self, BitVec.xor_zero]

/-- The xor with the word's own top bits is its own inverse (R57 (d)). -/
theorem xorW_shrW_47_involutive : Function.Involutive (fun k : Word 64 => xorW k (shrW k 47)) := by
  intro k
  show xorW (xorW k (shrW k 47)) (shrW (xorW k (shrW k 47)) 47) = k
  rw [shrW_xorW_shrW_47, xorW_xorW_cancel_right]

/-- Settles O35: each identity is a lemma about the primitives it names. -/
theorem arithmeticIdentities : Obligations.ArithmeticIdentities :=
  ⟨fun _ h => mulW_five h, fun _ n h => addW_mulW_five_toNat n h,
    fun x _ _ hr => rotl32_toNat_concat x (hr.trans (by decide)),
    fun k => ⟨shrW_xorW_shrW_47 k, xorW_shrW_47_involutive k⟩, xorW_shrW_47_involutive.bijective,
    fun _ a b => ⟨(BitVec.ofInt_add a b).symm, (BitVec.ofInt_mul a b).symm⟩⟩

end Sys2Proof.Machine
end


section
/-! Proofs of the statements about the three mixers: R60 and R61 of 41_murmur3_32bit_mixer.md, R66 and R67 of
42_murmur2_64bit_mixer.md, R71 and R72 of 43_hash_combine_dispatch.md. -/

namespace Sys2Proof.Machine

/-! ### Each primitive is a bijection in one operand -/

theorem xorW_bijective_right {w : Nat} (a : Word w) : Function.Bijective (fun x => xorW a x) :=
  Function.Involutive.bijective fun x => by
    rw [xorW, xorW, ← BitVec.xor_assoc, BitVec.xor_self, BitVec.zero_xor]

theorem xorW_bijective_left {w : Nat} (a : Word w) : Function.Bijective (fun x => xorW x a) :=
  Function.Involutive.bijective fun x => xorW_xorW_cancel_right x a

theorem addW_bijective_left {w : Nat} (a : Word w) : Function.Bijective (fun x => addW x a) :=
  AddGroup.addRight_bijective a

/-! ### `MIX32` -/

/-- Steps 5 and 6 of R58, after the seed has come in. -/
theorem mix32_tail_bijective : Function.Bijective
    (fun h1 : Word 32 => addW (mulW (rotl32 h1 litR2) (lit 32 litFive)) (lit 32 litN)) :=
  (addW_bijective_left (lit 32 litN)).comp
    ((mulW_bijective_of_odd (b := lit 32 litFive) (by decide)).comp (rotl32_bijective (r := litR2) (by decide)))

/-- Steps 1 to 3 of R58, before the seed comes in. -/
theorem mix32_head_bijective : Function.Bijective
    (fun value : Word 32 => mulW (rotl32 (mulW value (lit 32 litC1)) litR1) (lit 32 litC2)) :=
  (mulW_bijective_of_odd (b := lit 32 litC2) (by decide)).comp
    ((rotl32_bijective (r := litR1) (by decide)).comp (mulW_bijective_of_odd (b := lit 32 litC1) (by decide)))

theorem mix32_bijective_value (seed : Word 32) : Function.Bijective (fun value => mix32 seed value) :=
  mix32_tail_bijective.comp ((xorW_bijective_right seed).comp mix32_head_bijective)

theorem mix32_bijective_seed (value : Word 32) : Function.Bijective (fun seed => mix32 seed value) :=
  mix32_tail_bijective.comp (xorW_bijective_left _)

/-- With value 0 steps 1 to 4 leave the seed as it is (R60). -/
theorem mix32_value_zero (seed : Word 32) :
    mix32 seed 0 = addW (mulW (rotl32 seed 13) 5#32) 0xe6546b64#32 := by
  have hk3 : mulW (rotl32 (mulW 0 (lit 32 litC1)) litR1) (lit 32 litC2) = 0 := by decide
  rw [mix32, hk3, xorW_zero]
  rfl

/-- Settles O36: the formula for value 0, and three evaluations. -/
theorem mix32OnZeroOperands : Obligations.Mix32OnZeroOperands :=
  ⟨by decide, by decide, mix32_value_zero, by decide⟩

/-- Settles O37: each step of R58 is a bijection of the word it works on, and so is their composition. -/
theorem mix32BijectiveInEachOperand : Obligations.Mix32BijectiveInEachOperand :=
  ⟨mix32_bijective_value, mix32_bijective_seed, fun s _ _ h => (mix32_bijective_value s).injective h,
    fun _ _ v h => (mix32_bijective_seed v).injective h, by decide, by decide⟩

/-! ### `MIX64` -/

/-- The multiplier `m` of R64 is odd. -/
theorem mulW_litM_bijective : Function.Bijective (fun x : Word 64 => mulW x (lit 64 litM)) :=
  mulW_bijective_of_odd (by decide)

/-- Steps 6 and 7 of R63, after the seed has come in. -/
theorem mix64_tail_bijective : Function.Bijective (fun h1 : Word 64 => addW (mulW h1 (lit 64 litM)) (lit 64 litN)) :=
  (addW_bijective_left (lit 64 litN)).comp mulW_litM_bijective

theorem mix64_bijective_value (seed : Word 64) : Function.Bijective (fun value => mix64 seed value) :=
  mix64_tail_bijective.comp ((xorW_bijective_right seed).comp
    (mulW_litM_bijective.comp (xorW_shrW_47_involutive.bijective.comp mulW_litM_bijective)))

theorem mix64_bijective_seed (value : Word 64) : Function.Bijective (fun seed => mix64 seed value) :=
  mix64_tail_bijective.comp (xorW_bijective_left _)

/-- With value 0 steps 2 to 5 leave the seed as it is (R66). -/
theorem mix64_value_zero (seed : Word 64) :
    mix64 seed 0 = addW (mulW seed 0xc6a4a7935bd1e995#64) 0xe6546b64#64 := by
  have hk3 : mulW (xorW (mulW 0 (lit 64 litM)) (shrW (mulW 0 (lit 64 litM)) litR)) (lit 64 litM) = 0 := by decide
  rw [mix64, hk3, xorW_zero]
  rfl

/-- Settles O38: the formula for value 0, and four evaluations. -/
theorem mix64OnZeroOperands : Obligations.Mix64OnZeroOperands :=
  ⟨by decide, by decide, mix64_value_zero, by decide, by decide⟩

/-- Settles O39: each step of R63 is a bijection of the word it works on, and so is their composition. -/
theorem mix64BijectiveInEachOperand : Obligations.Mix64BijectiveInEachOperand :=
  ⟨mix64_bijective_value, mix64_bijective_seed, by decide, by decide, by decide⟩

/-! ### `MIXG` -/

/-- The value enters `MIXG` through sums and one xor only (R70). -/
theorem mixg_bijective_value {w : Nat} (seed : Word w) : Function.Bijective (fun value => mixg seed value) :=
  (xorW_bijective_right seed).comp ((addW_bijective_left (shrW seed litSr)).comp
    ((addW_bijective_left (shlW seed litSl)).comp (addW_bijective_left (lit w litG))))

/-- Reducing modulo `2^W` keeps the parity at every width but 0. -/
theorem mod_two_pow_mod_two {w : Nat} (h1 : 1 ≤ w) (n : Nat) : n % 2 ^ w % 2 = n % 2 :=
  Nat.mod_mod_of_dvd n (dvd_pow_self 2 (Nat.one_le_iff_ne_zero.mp h1))

theorem lit_litG_odd {w : Nat} (h1 : 1 ≤ w) : (lit w litG).toNat % 2 = 1 := by
  rw [lit_toNat, mod_two_pow_mod_two h1, litG]

/-- `MIXG` of zeros is its constant (R72). -/
theorem mixg_zero_zero (w : Nat) : mixg (0 : Word w) 0 = lit w litG := by
  apply BitVec.eq_of_toNat_eq
  simp [mixg_toNat, litG]

/-- Widths up to 6 lose the left shift (R71, D8). -/
theorem mixg_of_le_six {w : Nat} (h : w ≤ 6) (seed value : Word w) :
    mixg seed value = xorW seed (addW (addW value (lit w litG)) (shrW seed 2)) := by
  have hzero (a : Word w) : addW a (shlW seed litSl) = a := by
    rw [litSl, shlW_eq_zero h]
    exact BitVec.add_zero a
  rw [mixg, hzero, litSr]

/-- The low two bits of the constant of `MIXG` are those of 1. -/
theorem lit_litG_of_le_two {w : Nat} (h : w ≤ 2) : lit w litG = lit w 1 := by
  interval_cases w <;> decide

/-- Widths up to 2 lose both shifts (R71, D8). -/
theorem mixg_of_le_two {w : Nat} (h : w ≤ 2) (seed value : Word w) :
    mixg seed value = xorW seed (addW value (lit w 1)) := by
  have hzero (a : Word w) : addW a (shrW seed 2) = a := by
    rw [shrW_eq_zero h]
    exact BitVec.add_zero a
  rw [mixg_of_le_six (h.trans (by decide)), hzero, lit_litG_of_le_two h]

/-- At width 1 a sum is a xor (R71). -/
theorem mixg_width_one (seed value : Word 1) : mixg seed value = xorW (xorW seed value) 1 := by
  rw [mixg_of_le_two (by decide)]
  exact (congrArg (xorW seed) BitVec.add_eq_xor).trans (BitVec.xor_assoc seed value 1).symm

/-- Settles O40: the constant's reductions, and the shifts that vanish at small widths. -/
theorem mixgAtSmallAndLargeWidths : Obligations.MixgAtSmallAndLargeWidths :=
  ⟨fun w _ => lit_toNat w litG, by decide, by decide, by decide, by decide, by decide, by decide, by decide, by decide,
    by decide, by decide, fun _ => lit_litG_odd, fun _ => lit_litG_of_lt,
    fun _ seed value h => ⟨shlW_eq_zero h seed, mixg_of_le_six h seed value⟩,
    fun _ seed value h => ⟨shrW_eq_zero h seed, mixg_of_le_two h seed value⟩, mixg_width_one⟩

/-- `MIXG` of zeros over the integers, and its parity (R72, R74). -/
theorem mixg_zero_zero_toNat {w : Nat} (h1 : 1 ≤ w) :
    (mixg (0 : Word w) 0).toNat = 0x9e3779b9 % 2 ^ w ∧ (mixg (0 : Word w) 0).toNat % 2 = 1 := by
  rw [mixg_zero_zero]
  exact ⟨lit_toNat w litG, lit_litG_odd h1⟩

/-- Settles O41: the value enters by bijections; at width 8 two seeds evaluate to one result; and the two special
widths do not use the generic formula. -/
theorem mixgBijectiveInTheValueOnly : Obligations.MixgBijectiveInTheValueOnly := by
  have hfirst : mixg 0x19#8 0x00#8 = 0xe6#8 := by decide
  have hsecond : mixg 0x24#8 0x00#8 = 0xe6#8 := by decide
  refine ⟨fun _ => mixg_zero_zero_toNat, fun _ => mixg_bijective_value, hfirst, hsecond, ?collision, by decide,
    by decide, by decide, combine_32, combine_64⟩
  intro hbij
  exact absurd (hbij.injective (hfirst.trans hsecond.symm)) (by decide)

end Sys2Proof.Machine
end


section
/-! Proofs of the statements about `COMBINE` and its use by an instance: R74, R77 and R78 of
43_hash_combine_dispatch.md. -/

namespace Sys2Proof.Machine

theorem combine_bijective_value {w : Nat} (seed : Word w) : Function.Bijective (fun value => combine w seed value) := by
  by_cases h32 : w = 32
  · subst h32
    simp only [combine_32]
    exact mix32_bijective_value seed
  by_cases h64 : w = 64
  · subst h64
    simp only [combine_64]
    exact mix64_bijective_value seed
  simp only [combine_generic h32 h64]
  exact mixg_bijective_value seed

/-- At the two special widths the seed determines the result as the value does (R61, R67). -/
theorem combine_bijective_seed {w : Nat} (hw : w = 32 ∨ w = 64) (value : Word w) :
    Function.Bijective (fun seed => combine w seed value) := by
  obtain rfl | rfl := hw
  · simp only [combine_32]
    exact mix32_bijective_seed value
  · simp only [combine_64]
    exact mix64_bijective_seed value

theorem combine_32_zero_zero : combine 32 0 0 = 0xe6546b64#32 := by decide

theorem combine_64_zero_zero : combine 64 0 0 = 0x00000000e6546b64#64 := by decide

/-- Elsewhere `COMBINE` of zeros is the constant of `MIXG`, and odd (R74). -/
theorem combine_zero_zero_generic {w : Nat} (h1 : 1 ≤ w) (h32 : w ≠ 32) (h64 : w ≠ 64) :
    (combine w 0 0).toNat = 0x9e3779b9 % 2 ^ w ∧ (combine w 0 0).toNat % 2 = 1 := by
  rw [combine_generic h32 h64]
  exact mixg_zero_zero_toNat h1

theorem combine_zero_zero_ne_zero {w : Nat} (h1 : 1 ≤ w) : combine w 0 0 ≠ 0 := by
  by_cases h32 : w = 32
  · subst h32
    rw [combine_32_zero_zero]
    decide
  by_cases h64 : w = 64
  · subst h64
    rw [combine_64_zero_zero]
    decide
  intro h
  have hodd := (combine_zero_zero_generic h1 h32 h64).2
  rw [h] at hodd
  simp at hodd

/-- Settles O42: two evaluations at the special widths and an odd word elsewhere; the zero results are those of R60 and
R66. -/
theorem combineOfZerosIsNotZero : Obligations.CombineOfZerosIsNotZero :=
  ⟨fun _ => combine_zero_zero_ne_zero, combine_32_zero_zero, combine_64_zero_zero,
    fun _ => combine_zero_zero_generic, ⟨0x87602912#32, 0, by decide⟩, ⟨0x08d1696e3ba3f32c#64, 0, by decide⟩⟩

/-- A step of a driven legal instance completes, with `COMBINE` of the two words on the output. -/
theorem step_drive_legal {s : State} (h : s.Legal) (seed value : Word s.inst.width) :
    step (s.drive seed value) = .next (s.drive seed value) ∧
      (s.drive seed value).outputNat = .ok (combine s.inst.width seed value).toNat := by
  have hdriven : (s.drive seed value).Legal := legal_of_inst_eq (drive_inst s seed value) h
  exact ⟨step_legal hdriven, outputNat_legal hdriven⟩

/-- The words driven on a legal instance give a wanted output exactly when it is `COMBINE` of them. -/
theorem step_drive_output_iff {s : State} (h : s.Legal) (seed value target : Word s.inst.width) :
    (∃ t, step (s.drive seed value) = .next t ∧ t.outputNat = .ok target.toNat) ↔
      combine s.inst.width seed value = target := by
  obtain ⟨hstep, hout⟩ := step_drive_legal h seed value
  constructor
  · rintro ⟨t, ht, htarget⟩
    obtain ⟨-, rfl⟩ := step_next ht
    rw [hout] at htarget
    exact BitVec.eq_of_toNat_eq (Except.ok.inj htarget)
  · rintro rfl
    exact ⟨_, hstep, hout⟩

/-- Settles O43: what a driven instance gives is `COMBINE`, a bijection in the value, and in the seed at 32 and 64. -/
theorem everyResultHasExactlyOneCause : Obligations.EveryResultHasExactlyOneCause := by
  intro s hs target
  simp only [step_drive_output_iff hs]
  exact ⟨fun seed => (combine_bijective_value seed).existsUnique target,
    fun hw value => (combine_bijective_seed hw value).existsUnique target⟩

/-- To flip a bit of a word changes the word. -/
theorem xor_twoPow_ne_self {w i : Nat} (hi : i < w) (x : Word w) : x ^^^ BitVec.twoPow w i ≠ x := by
  intro h
  have hbit := congrArg (fun y => y.getLsbD i) h
  simp [hi] at hbit

/-- Settles O44: the flipped value is another value, and `COMBINE` is injective in the value. -/
theorem flippedValueBitChangesTheResult : Obligations.FlippedValueBitChangesTheResult := by
  intro s seed value i hs hi
  obtain ⟨hstep, hout⟩ := step_drive_legal hs seed value
  obtain ⟨hstep', hout'⟩ := step_drive_legal hs seed (value ^^^ BitVec.twoPow s.inst.width i)
  refine ⟨_, _, _, _, hstep, hout, hstep', hout', fun h => ?_⟩
  exact xor_twoPow_ne_self hi value ((combine_bijective_value seed).injective (BitVec.eq_of_toNat_eq h)).symm

end Sys2Proof.Machine
end
